-- ==== Sys2Proof/Word.lean ====
section
/-! DEFINITION. Words: bytes, byte sequences, the transport status, and the plain records that travel on the wire
(spec 00_scope.md R10, R11; 10_state.md R28, R29). -/
namespace Sys2Proof

/-- A u8 (R10). -/
abbrev Byte := BitVec 8

/-- `bytes[N]`: index 0 is the first byte on the wire (R11, R61). -/
abbrev Bytes := List Byte

/-- The transport's reply status, an `int32` (R29). Signed: read it with `toInt`. -/
abbrev Status := BitVec 32

/-- The direction of an exchange. It is recorded in HIST and is not on the wire (R28, R96). -/
inductive Kind where
  /-- W, a write frame (R91). -/
  | write
  /-- R, a read frame (R92). -/
  | read
  deriving DecidableEq, Repr, Inhabited

/-- One exchange event of HIST (R28). -/
structure Event where
  kind   : Kind
  tx     : Bytes
  status : Status
  rx     : Bytes
  deriving DecidableEq, Repr, Inhabited

/-- The reply to one exchange (R29). -/
structure Reply where
  status : Status
  rx     : Bytes
  deriving DecidableEq, Repr, Inhabited

/-- The transport device identifier or path (R22). Opaque to the block: no rule looks inside it. Held as the bytes of
the path so that State stays plain data (log 22). -/
structure DeviceId where
  path : Bytes
  deriving DecidableEq, Repr, Inhabited

/-- The bits of an exchange that HIST decoding and the wire need: kind and frame. -/
abbrev TaggedFrame := Kind × Bytes

/-- What of an event went on the wire, with its kind tag. -/
def Event.sent (e : Event) : TaggedFrame := (e.kind, e.tx)

end Sys2Proof
end

