-- ==== Sys2Proof/Config.lean ====
section
/-! DEFINITION. Config: the implementation parameters of 00_scope.md R9, the fixed register map (20_memory.md R56), and the free
values: what the spec leaves to the oracle (R29, R33, R35, R58, R241, R242). A free value is an opaque constant without
a body: nothing can evaluate it, so a statement about it holds whatever it is. -/
namespace Sys2Proof.Config

/-- PAGE_SEL_ADDR: the wire address of the page-select register (R9, R55). -/
abbrev pageSelAddr : Byte := 0x7F#8

/-- PAGE_SIZE: bytes per page (R9, R54). -/
abbrev pageSize : Nat := 0x80

/-- NUM_PAGES (R9). -/
abbrev numPages : Nat := 16

/-- Logical addresses that reach a distinct (page, offset) pair are those below this bound (R9 LA_REACH, R51, C1). -/
abbrev laReach : Nat := 0x800

/-- READ_LEN_MIN and READ_LEN_MAX: legal payload lengths of an addressed read (R9, R150). -/
abbrev readLenMin : Nat := 1
abbrev readLenMax : Nat := 255

/-- FIELD_WIDTHS: legal field widths in bytes (R9). -/
abbrev fieldWidths : List Byte := [1#8, 2#8, 4#8]

/-- BPW: the transfer word size in bits, hard-wired (R9, R25). -/
abbrev bpw : Byte := 8#8

/-- Default SPEED_HZ, MODE and DEBUG (R9, R23, R24, R26). -/
abbrev defaultSpeedHz : BitVec 32 := 1000000#32
abbrev defaultMode : BitVec 2 := 0#2
abbrev defaultDebug : Byte := 0#8

/-- One row of the fixed logical register map (R56). -/
structure FixedRegister where
  la    : BitVec 16
  width : Byte
  deriving DecidableEq, Repr

/-- The four logical registers the spec fixes (R56). -/
def chipIdentifier      : FixedRegister := ⟨0x0001#16, 2#8⟩
def revision            : FixedRegister := ⟨0x0003#16, 2#8⟩
def firmwareVersion     : FixedRegister := ⟨0x0005#16, 2#8⟩
def customConfigVersion : FixedRegister := ⟨0x0007#16, 4#8⟩
def fixedRegisters : List FixedRegister := [chipIdentifier, revision, firmwareVersion, customConfigVersion]

/-- DEVICE: the transport device identifier at reset, a model parameter left OPEN (R9, R22, I16). -/
opaque device : DeviceId

/-! ORACLE (R9 OPEN, R58). The first argument names which oracle answers a run; it is plain data in State
(`Wire.oracle`), so that two runs need not share one (log 2). -/

/-- The status the transport reports for an exchange: any int32, chosen from the history so far and the frame
(R29, R58, D7). -/
opaque oracleStatus : Nat → List Event → Kind → Bytes → Status

/-- Byte i of the reply to an exchange: any byte (R29, R58, D7, D8). -/
opaque oracleByte : Nat → List Event → Kind → Bytes → Nat → Byte

/-- The device's current page after a history of exchanges: any 4-bit value, at reset, after a failed select and at
any other time (R33, R58, D17). -/
opaque oraclePage : Nat → List Event → BitVec 4

/-- The device's register byte at a device address after a history of exchanges: any byte (R35, R58, D8). -/
opaque oracleReg : Nat → List Event → Nat → Byte

/-- The register bytes that a test of the device reference model does not fix (R59): any byte for each address. -/
opaque devContents : Nat → Nat → Byte

/-- Whether the transport can open a device (R241, D12, I15). -/
opaque transportOpens : Nat → DeviceId → Bool

/-- Whether the transport, having opened a device, accepts clock mode, word size and clock speed, as one step
(R242, D12, I15). -/
opaque transportAccepts : Nat → DeviceId → BitVec 2 → Byte → BitVec 32 → Bool

end Sys2Proof.Config
end

