-- ==== Sys2Proof/Syntax.lean ====
section
/-! DEFINITION. Syntax: the commands of 30_encoding.md R90 and of spec/opcode_table.json, one constructor per row, and the
caller's lines around them (R103, R104, R246). Operands are typed at the widths of R90, so that the first
well-formedness condition of R101 (each operand fits its width) holds by construction (log 17). -/
namespace Sys2Proof

/-- A command record: a tag and operands (R90, D2). -/
inductive Instr where
  /-- SPLIT (R170): page and offset of a logical address. -/
  | split (la : BitVec 16)
  /-- SELECT_PAGE (R120). -/
  | selectPage (page : Byte)
  /-- WRITE_BYTE (R140). -/
  | writeByte (addr value : Byte)
  /-- READ_BYTES (R150). -/
  | readBytes (addr : Byte) (len : BitVec 16)
  /-- READ_REGISTER (R175). -/
  | readRegister (la : BitVec 16) (width : Byte)
  /-- DECODE_BE with width 1 (R191). -/
  | decodeBe1 (data : Bytes)
  /-- DECODE_BE with width 2 (R192). -/
  | decodeBe2 (data : Bytes)
  /-- DECODE_BE with width 4 (R193). -/
  | decodeBe4 (data : Bytes)
  /-- DECODE_BE with a width outside 1, 2, 4 (R190). -/
  | decodeBeOther (width : Byte) (data : Bytes)
  /-- READ_FIELD, the pseudo-command (R104): READ_REGISTER, then DECODE_BE. -/
  | readField (la : BitVec 16) (width : Byte)
  deriving DecidableEq, Repr

/-- The session gate (R101, R245; the table's session_gate): which commands need SESS = OPEN. -/
def Instr.gated : Instr → Bool
  | .split _           => false
  | .selectPage _      => true
  | .writeByte _ _     => true
  | .readBytes _ _     => true
  | .readRegister _ _  => true
  | .decodeBe1 _       => false
  | .decodeBe2 _       => false
  | .decodeBe4 _       => false
  | .decodeBeOther _ _ => false
  | .readField _ _     => true

/-- A name of the caller's, bound to the result of a line (R103): its characters as bytes. -/
abbrev Label := Bytes

/-- What a line asks for: a command record, or a DECODE_BE whose data operand is the name of an earlier result (R103). -/
inductive Cmd where
  | instr (i : Instr)
  | decodeResult (width : Byte) (source : Label)
  deriving DecidableEq, Repr

/-- One line of a caller's program (R103): an optional name for its result, and a command. -/
structure Line where
  label : Option Label
  cmd   : Cmd
  deriving DecidableEq, Repr

/-- One thing the caller does (R246): the session steps, which are not commands (R90), and command lines. -/
inductive CallerStep where
  /-- R246 step 1: CFG is set once, before open (R27). -/
  | setConfig (device : DeviceId) (speedHz : BitVec 32) (mode : BitVec 2) (debug : Byte)
  /-- R246 steps 2 and 3: open, and configure on success (R241, R242). -/
  | openSession
  /-- R246 step 4: one command line. -/
  | line (l : Line)
  /-- R246 step 5: release (R244), the caller's own step (log 29). -/
  | releaseSession
  deriving DecidableEq, Repr

/-- The two lines the pseudo-command READ_FIELD stands for (R104), with the names `t` and `v` of the rule. -/
def readFieldExpansion (la : BitVec 16) (width : Byte) : List Line :=
  [⟨some [0x74#8], .instr (.readRegister la width)⟩, ⟨some [0x76#8], .decodeResult width [0x74#8]⟩]

end Sys2Proof
end

