-- ==== Sys2Proof/WellFormed.lean ====
section
/-! DEFINITION. WellFormed: which command records have a meaning (30_encoding.md R101), apart from the session gate, which is a
condition on the state (Machine/Ops.lean, `gated`). A command with an illegal value of R98 IS well formed: it executes
and returns InvalidArgument. -/
namespace Sys2Proof

/-- The second condition of R101: for DECODE_BE with a legal width, the data has that many bytes; and the row for
other widths has a width outside 1, 2, 4. The first condition holds by the operands' types (log 17). -/
def Instr.wf : Instr → Bool
  | .split _           => true
  | .selectPage _      => true
  | .writeByte _ _     => true
  | .readBytes _ _     => true
  | .readRegister _ _  => true
  | .decodeBe1 d       => d.length == 1
  | .decodeBe2 d       => d.length == 2
  | .decodeBe4 d       => d.length == 4
  | .decodeBeOther w _ => !Config.fieldWidths.contains w
  | .readField _ _     => true

end Sys2Proof
end

