-- ==== Sys2Proof/Decode.lean ====
section
/-! DEFINITION. Decode: the encodings of 30_encoding.md and the decoders that read them.
1. Operand assembly: the address split (R50, R170).
2. Wire frames (R91 to R97): encodeFrame and encodeFrames write them, decodeFrame and decodeFrames read them back. The
   kind tag stands beside the bytes, because the bytes alone do not tell a read from a write (R96).
3. The textual form of a command line (R103): decode and decodeLine read any bytes, and reject by name; encode and
   encodeLine write it. This is the only form in which the spec writes every command down; there is no binary command
   word (D2). What R103 leaves open of characters and numbers is log 14.
4. decodeTableWord: the opcode table's bit patterns (log 15). -/
namespace Sys2Proof

/-! ## 1. Operand assembly -/

/-- The page index `(la >> 7) & 0xF` = la[10:7] (R50, R170). -/
def pageOf (la : BitVec 16) : BitVec 4 := ((la >>> 7) &&& 0x000F#16).setWidth 4

/-- The in-page offset `la & 0x7F` = la[6:0] (R50, R170). -/
def offsetOf (la : BitVec 16) : BitVec 7 := (la &&& 0x007F#16).setWidth 7

/-- The logical address below 0x800 that a page and an offset stand for, `page*0x80 + offset` (R51). -/
def joinAddr (page : BitVec 4) (offset : BitVec 7) : BitVec 16 :=
  (page.setWidth 16 <<< 7) ||| offset.setWidth 16

/-- A legal field width: 1, 2 or 4 (R9 FIELD_WIDTHS). -/
def isFieldWidth (width : Byte) : Bool := width == 1#8 || width == 2#8 || width == 4#8

/-- The operand values that R98 makes invalid arguments: the command executes, sends nothing and returns
InvalidArgument. -/
def Instr.hasIllegalOperand : Instr → Bool
  | .split _            => false
  | .selectPage page    => decide (0x0F#8 < page)
  | .writeByte _ _      => false
  | .readBytes _ len    => decide (len < 1#16) || decide (255#16 < len)
  | .readRegister _ w   => !isFieldWidth w
  | .decodeBe1 _        => false
  | .decodeBe2 _        => false
  | .decodeBe4 _        => false
  | .decodeBeOther w _  => !isFieldWidth w
  | .readField _ w      => !isFieldWidth w

/-- The command DECODE_BE as R90 gives it, one tag with a `width` operand: the table row its width selects (R190). -/
def Instr.decodeBe (width : Byte) (data : Bytes) : Instr :=
  if width = 1#8 then .decodeBe1 data
  else if width = 2#8 then .decodeBe2 data
  else if width = 4#8 then .decodeBe4 data
  else .decodeBeOther width data

/-! ## 2. Wire frames -/

/-- The two frame shapes of the wire (R91, R92, R100): WF with its value, RF with its payload length. -/
inductive Frame where
  | write (a v : Byte)
  | read (a : Byte) (len : Nat)
  deriving DecidableEq, Repr

/-- RF(L) has L in 1..255 (R92); every WF is legal (R98). -/
def Frame.wf : Frame → Bool
  | .write _ _  => true
  | .read _ len => decide (Config.readLenMin ≤ len) && decide (len ≤ Config.readLenMax)

/-- WF: `[address, value]` (R91). -/
def writeFrame (a v : Byte) : Bytes := [a, v]

/-- RF(L): `[address] ++ [0x00]*L` (R92). -/
def readFrame (a : Byte) (len : Nat) : Bytes := a :: List.replicate len 0x00#8

/-- The value byte of PSF: `page & 0x0F` (R94, R97). -/
def pageSelectValue (page : Byte) : Byte := page &&& 0x0F#8

/-- PSF: the write frame at 0x7F (R94). -/
def pageSelectFrame (page : Byte) : Bytes := writeFrame Config.pageSelAddr (pageSelectValue page)

/-- A frame's kind and bytes (R91, R92). -/
def encodeFrame : Frame → TaggedFrame
  | .write a v  => (.write, writeFrame a v)
  | .read a len => (.read, readFrame a len)

/-- A frame from its kind and bytes (R102: the length from `len(tx)`, the kind from the tag). -/
def decodeFrame : TaggedFrame → Option Frame
  | (.write, [a, v])     => some (.write a v)
  | (.write, _)          => none
  | (.read, [])          => none
  | (.read, a :: filler) =>
    if filler.all (· == 0x00#8) && (Frame.read a filler.length).wf then some (.read a filler.length) else none

/-- The frames a command emits when every exchange succeeds, in order (R94, R95, R97, the table's `frames`): none for the
commands without a frame and for the illegal operand values of R98. -/
def encodeFrames (i : Instr) : List TaggedFrame :=
  if i.hasIllegalOperand then [] else
  match i with
  | .split _            => []
  | .selectPage page    => [(.write, pageSelectFrame page)]
  | .writeByte addr v   => [(.write, writeFrame addr v)]
  | .readBytes addr len => [(.read, readFrame addr len.toNat)]
  | .readRegister la w  =>
    [(.write, pageSelectFrame ((pageOf la).setWidth 8)), (.read, readFrame ((offsetOf la).setWidth 8) w.toNat)]
  | .decodeBe1 _        => []
  | .decodeBe2 _        => []
  | .decodeBe4 _        => []
  | .decodeBeOther _ _  => []
  | .readField la w     =>
    [(.write, pageSelectFrame ((pageOf la).setWidth 8)), (.read, readFrame ((offsetOf la).setWidth 8) w.toNat)]

/-- The command that emits given frames. Where several do, the answer is: SELECT_PAGE before WRITE_BYTE for a PSF (R143:
the two have the same frame), READ_REGISTER before READ_FIELD (R104: the same frames), and of the aliases of a logical
address the one below 0x800 (R52). -/
def decodeFrames : List TaggedFrame → Option Instr
  | [f] =>
    match decodeFrame f with
    | some (.write a v) => some (if a = Config.pageSelAddr ∧ v ≤ 0x0F#8 then .selectPage v else .writeByte a v)
    | some (.read a n)  => some (.readBytes a (BitVec.ofNat 16 n))
    | none              => none
  | [f, g] =>
    match decodeFrame f, decodeFrame g with
    | some (.write a v), some (.read o n) =>
      if a = Config.pageSelAddr ∧ v ≤ 0x0F#8 ∧ o ≤ 0x7F#8 ∧ (n = 1 ∨ n = 2 ∨ n = 4) then
        some (.readRegister (joinAddr (v.setWidth 4) (o.setWidth 7)) (BitVec.ofNat 8 n))
      else none
    | _, _ => none
  | _ => none

/-! ## 3. The textual form of R103 -/

/-- A character of a name or number in the textual form (R103; the classes are log 14): a digit. -/
def isDigit (c : Byte) : Bool := decide (0x30#8 ≤ c) && decide (c ≤ 0x39#8)

/-- A letter or underscore, in ASCII (log 14). -/
def isLetter (c : Byte) : Bool :=
  (decide (0x41#8 ≤ c) && decide (c ≤ 0x5A#8)) || (decide (0x61#8 ≤ c) && decide (c ≤ 0x7A#8)) || c == 0x5F#8

def isWordChar (c : Byte) : Bool := isLetter c || isDigit c

/-- A name (R103, log 14): a letter first, then letters and digits. -/
def Label.wf : Label → Bool
  | []      => false
  | c :: cs => isLetter c && cs.all isWordChar

/-- A well-formed line: a command record of R101 under an optional name, or DECODE_BE of a name. -/
def Line.wf (l : Line) : Bool :=
  (match l.label with
    | none   => true
    | some n => Label.wf n) &&
  (match l.cmd with
    | .instr i          => i.wf
    | .decodeResult _ n => Label.wf n)

/-- Why a line's bytes are no command line. -/
inductive Reject where
  /-- A byte outside the character classes of log 14. -/
  | badCharacter (c : Byte)
  /-- The line does not begin with a mnemonic, or with a name, `=` and a mnemonic. -/
  | noMnemonic
  /-- The name before `=` is not a name. -/
  | badLabel
  /-- A mnemonic that R103 does not list. -/
  | unknownMnemonic (m : Bytes)
  /-- The operands are not a comma-separated list of numbers, names and byte lists. -/
  | badOperands
  /-- The operands do not have the number and forms that R90 and R103 give the mnemonic. -/
  | wrongOperands
  /-- A number too large for its operand's width (R90, R101). -/
  | operandRange
  /-- `decode` alone: the data operand is a name, which only the caller's results resolve (R103). -/
  | namedData
  deriving DecidableEq, Repr

/-- The mnemonics of R103. -/
inductive Mnemonic where
  | split | selectPage | writeByte | readBytes | readRegister | decodeBe | readField
  deriving DecidableEq, Repr

/-- The spelling of a mnemonic (R103), in ASCII. -/
def Mnemonic.spelling : Mnemonic → Bytes
  -- split
  | .split => [0x73#8, 0x70#8, 0x6C#8, 0x69#8, 0x74#8]
  -- select_page
  | .selectPage => [0x73#8, 0x65#8, 0x6C#8, 0x65#8, 0x63#8, 0x74#8, 0x5F#8, 0x70#8, 0x61#8, 0x67#8, 0x65#8]
  -- write_byte
  | .writeByte => [0x77#8, 0x72#8, 0x69#8, 0x74#8, 0x65#8, 0x5F#8, 0x62#8, 0x79#8, 0x74#8, 0x65#8]
  -- read_bytes
  | .readBytes => [0x72#8, 0x65#8, 0x61#8, 0x64#8, 0x5F#8, 0x62#8, 0x79#8, 0x74#8, 0x65#8, 0x73#8]
  -- read_register
  | .readRegister =>
    [0x72#8, 0x65#8, 0x61#8, 0x64#8, 0x5F#8, 0x72#8, 0x65#8, 0x67#8, 0x69#8, 0x73#8, 0x74#8, 0x65#8, 0x72#8]
  -- decode_be
  | .decodeBe => [0x64#8, 0x65#8, 0x63#8, 0x6F#8, 0x64#8, 0x65#8, 0x5F#8, 0x62#8, 0x65#8]
  -- read_field
  | .readField => [0x72#8, 0x65#8, 0x61#8, 0x64#8, 0x5F#8, 0x66#8, 0x69#8, 0x65#8, 0x6C#8, 0x64#8]

/-- The mnemonic a word spells. -/
def Mnemonic.ofSpelling (m : Bytes) : Option Mnemonic :=
  [Mnemonic.split, .selectPage, .writeByte, .readBytes, .readRegister, .decodeBe, .readField].find? (·.spelling == m)

/-- A token of a line: a word (a name, a mnemonic or a number) or one of R103's punctuation marks. -/
inductive Token where
  | word (cs : Bytes)
  | comma | equals | lbracket | rbracket
  deriving DecidableEq, Repr

/-- The word collected so far, as a token. -/
def flushWord : Bytes → List Token
  | []      => []
  | c :: cs => [.word (c :: cs)]

/-- Tokens of a line's bytes, `acc` being the word under way. A semicolon begins the comment (R103). -/
def tokens (acc : Bytes) : Bytes → Except Reject (List Token)
  | [] => .ok (flushWord acc)
  | c :: cs =>
    if isWordChar c then tokens (acc ++ [c]) cs
    else if c = 0x3B#8 then .ok (flushWord acc)
    else if c = 0x20#8 ∨ c = 0x09#8 then (tokens [] cs).map (flushWord acc ++ ·)
    else if c = 0x2C#8 then (tokens [] cs).map (flushWord acc ++ Token.comma :: ·)
    else if c = 0x3D#8 then (tokens [] cs).map (flushWord acc ++ Token.equals :: ·)
    else if c = 0x5B#8 then (tokens [] cs).map (flushWord acc ++ Token.lbracket :: ·)
    else if c = 0x5D#8 then (tokens [] cs).map (flushWord acc ++ Token.rbracket :: ·)
    else .error (.badCharacter c)

/-- The value of a hexadecimal digit, either case. -/
def hexDigitValue (c : Byte) : Option Nat :=
  if isDigit c then some (c.toNat - 0x30)
  else if 0x61#8 ≤ c ∧ c ≤ 0x66#8 then some (c.toNat - 0x57)
  else if 0x41#8 ≤ c ∧ c ≤ 0x46#8 then some (c.toNat - 0x37)
  else none

/-- The value of a decimal digit. -/
def decDigitValue (c : Byte) : Option Nat := if isDigit c then some (c.toNat - 0x30) else none

/-- Digits in a base, most significant first, after the digits already read. -/
def digitsValue (base : Nat) (digit : Byte → Option Nat) (acc : Nat) : Bytes → Option Nat
  | [] => some acc
  | c :: cs =>
    match digit c with
    | some d => digitsValue base digit (acc * base + d) cs
    | none   => none

/-- A number (R103): decimal digits, or `0x` and hexadecimal digits. -/
def numberValue : Bytes → Option Nat
  | 0x30#8 :: 0x78#8 :: h :: hs => digitsValue 16 hexDigitValue 0 (h :: hs)
  | c :: cs                     => digitsValue 10 decDigitValue 0 (c :: cs)
  | []                          => none

/-- An operand (R103). -/
inductive Operand where
  | number (n : Nat)
  | name (l : Label)
  | list (ns : List Nat)
  deriving DecidableEq, Repr

/-- Where the reader of operands stands. -/
inductive OperandState where
  /-- At the beginning: an operand, or the end of the line. -/
  | first
  /-- After a comma: an operand. -/
  | operand
  /-- After an operand: a comma, or the end of the line. -/
  | after
  /-- After `[`: a number, or `]` (the empty list is log 14). -/
  | listFirst
  /-- After a comma in a list: a number. -/
  | listItem (ns : List Nat)
  /-- After a number in a list: a comma or `]`. -/
  | listAfter (ns : List Nat)
  deriving DecidableEq, Repr

/-- A word as an operand: a name if it is one, else a number. -/
def wordOperand (w : Bytes) : Option Operand :=
  if Label.wf w then some (.name w) else (numberValue w).map .number

/-- The operands of a line (R103): `[ operand { "," operand } ]`. -/
def operands (st : OperandState) (acc : List Operand) : List Token → Option (List Operand)
  | [] =>
    match st with
    | .first | .after => some acc
    | _               => none
  | t :: ts =>
    match st, t with
    | .first, .word w        => (wordOperand w).bind fun o => operands .after (acc ++ [o]) ts
    | .operand, .word w      => (wordOperand w).bind fun o => operands .after (acc ++ [o]) ts
    | .first, .lbracket      => operands .listFirst acc ts
    | .operand, .lbracket    => operands .listFirst acc ts
    | .after, .comma         => operands .operand acc ts
    | .listFirst, .rbracket  => operands .after (acc ++ [.list []]) ts
    | .listFirst, .word w    => (numberValue w).bind fun n => operands (.listAfter [n]) acc ts
    | .listItem ns, .word w  => (numberValue w).bind fun n => operands (.listAfter (ns ++ [n])) acc ts
    | .listAfter ns, .comma  => operands (.listItem ns) acc ts
    | .listAfter ns, .rbracket => operands .after (acc ++ [.list ns]) ts
    | _, _                   => none

/-- A number as an operand of n bits (R90, R101). -/
def fit (n v : Nat) : Except Reject (BitVec n) :=
  if v < 2 ^ n then .ok (BitVec.ofNat n v) else .error .operandRange

/-- A list of numbers as bytes. -/
def fitBytes : List Nat → Except Reject Bytes
  | []      => .ok []
  | v :: vs => (fit 8 v).bind fun b => (fitBytes vs).map (b :: ·)

/-- The command of a mnemonic and its operands, in the order of R90 (R103). -/
def assemble (m : Mnemonic) (ops : List Operand) : Except Reject Cmd :=
  match m, ops with
  | .split, [.number la]                 => (fit 16 la).map fun la => .instr (.split la)
  | .selectPage, [.number page]          => (fit 8 page).map fun page => .instr (.selectPage page)
  | .writeByte, [.number a, .number v]   => (fit 8 a).bind fun a => (fit 8 v).map fun v => .instr (.writeByte a v)
  | .readBytes, [.number a, .number n]   => (fit 8 a).bind fun a => (fit 16 n).map fun n => .instr (.readBytes a n)
  | .readRegister, [.number la, .number w] =>
    (fit 16 la).bind fun la => (fit 8 w).map fun w => .instr (.readRegister la w)
  | .decodeBe, [.number w, .list d]      =>
    (fit 8 w).bind fun w => (fitBytes d).map fun d => .instr (Instr.decodeBe w d)
  | .decodeBe, [.number w, .name n]      => (fit 8 w).map fun w => .decodeResult w n
  | .readField, [.number la, .number w]  =>
    (fit 16 la).bind fun la => (fit 8 w).map fun w => .instr (.readField la w)
  | _, _                                 => .error .wrongOperands

/-- The mnemonic and operands of a line. -/
def decodeCmd (m : Bytes) (ts : List Token) : Except Reject Cmd :=
  match Mnemonic.ofSpelling m with
  | none   => .error (.unknownMnemonic m)
  | some k =>
    match operands .first [] ts with
    | none     => .error .badOperands
    | some ops => assemble k ops

/-- A line from its tokens (R103). -/
def decodeTokens : List Token → Except Reject Line
  | .word n :: .equals :: .word m :: ts =>
    if Label.wf n then (decodeCmd m ts).map fun c => ⟨some n, c⟩ else .error .badLabel
  | .word m :: ts => (decodeCmd m ts).map fun c => ⟨none, c⟩
  | _             => .error .noMnemonic

/-- A line from its bytes (R103). Total: any bytes give a line or a rejection by name. -/
def decodeLine (bs : Bytes) : Except Reject Line := (tokens [] bs).bind decodeTokens

/-- The command record in a line's bytes, its result's name left aside. -/
def decode (bs : Bytes) : Except Reject Instr :=
  (decodeLine bs).bind fun l =>
    match l.cmd with
    | .instr i          => .ok i
    | .decodeResult _ _ => .error .namedData

/-- Bytes cut at line feeds, `acc` being the line under way. -/
def lines (acc : Bytes) : Bytes → List Bytes
  | []      => [acc]
  | c :: cs => if c = 0x0A#8 then acc :: lines [] cs else lines (acc ++ [c]) cs

/-- The lines of a program, one after another; a line without tokens is passed over (log 14). One rejected line rejects
the whole text, the lines before it included: DESIGN CHOICE, R103 does not say what becomes of the others (log 14). -/
def decodeLines : List Bytes → Except Reject (List Line)
  | []      => .ok []
  | b :: bs =>
    (tokens [] b).bind fun ts =>
      match ts with
      | []      => decodeLines bs
      | t :: ts => (decodeTokens (t :: ts)).bind fun l => (decodeLines bs).map (l :: ·)

/-- A program from its bytes (R103: `program := line*`). -/
def decodeProgram (bs : Bytes) : Except Reject (List Line) := decodeLines (lines [] bs)

/-! ## The encoder of the textual form -/

/-- A hexadecimal digit, upper case. -/
def hexDigit (v : BitVec 4) : Byte :=
  if v < 10#4 then 0x30#8 + v.setWidth 8 else 0x37#8 + v.setWidth 8

/-- A u8 as `0x` and two digits. -/
def encodeByte (b : Byte) : Bytes := [0x30#8, 0x78#8, hexDigit (b.extractLsb' 4 4), hexDigit (b.extractLsb' 0 4)]

/-- A u16 as `0x` and four digits. -/
def encodeHalf (h : BitVec 16) : Bytes :=
  [0x30#8, 0x78#8, hexDigit (h.extractLsb' 12 4), hexDigit (h.extractLsb' 8 4), hexDigit (h.extractLsb' 4 4),
    hexDigit (h.extractLsb' 0 4)]

/-- A comma and a space between operands. -/
def separator : Bytes := [0x2C#8, 0x20#8]

/-- The items of a byte list, separated. -/
def encodeItems : Bytes → Bytes
  | []           => []
  | [b]          => encodeByte b
  | b :: c :: bs => encodeByte b ++ separator ++ encodeItems (c :: bs)

/-- A byte list in brackets. -/
def encodeList (d : Bytes) : Bytes := 0x5B#8 :: encodeItems d ++ [0x5D#8]

/-- A mnemonic and a space. -/
def Mnemonic.lead (m : Mnemonic) : Bytes := m.spelling ++ [0x20#8]

/-- A command record as a line of R103. -/
def encode : Instr → Bytes
  | .split la           => Mnemonic.split.lead ++ encodeHalf la
  | .selectPage page    => Mnemonic.selectPage.lead ++ encodeByte page
  | .writeByte a v      => Mnemonic.writeByte.lead ++ encodeByte a ++ separator ++ encodeByte v
  | .readBytes a n      => Mnemonic.readBytes.lead ++ encodeByte a ++ separator ++ encodeHalf n
  | .readRegister la w  => Mnemonic.readRegister.lead ++ encodeHalf la ++ separator ++ encodeByte w
  | .decodeBe1 d        => Mnemonic.decodeBe.lead ++ encodeByte 1#8 ++ separator ++ encodeList d
  | .decodeBe2 d        => Mnemonic.decodeBe.lead ++ encodeByte 2#8 ++ separator ++ encodeList d
  | .decodeBe4 d        => Mnemonic.decodeBe.lead ++ encodeByte 4#8 ++ separator ++ encodeList d
  | .decodeBeOther w d  => Mnemonic.decodeBe.lead ++ encodeByte w ++ separator ++ encodeList d
  | .readField la w     => Mnemonic.readField.lead ++ encodeHalf la ++ separator ++ encodeByte w

/-- What a line asks for, as text. -/
def encodeCmd : Cmd → Bytes
  | .instr i          => encode i
  | .decodeResult w n => Mnemonic.decodeBe.lead ++ encodeByte w ++ separator ++ n

/-- A line as text: the name and `=`, if there is one, and the command. -/
def encodeLine (l : Line) : Bytes :=
  match l.label with
  | some n => n ++ [0x20#8, 0x3D#8, 0x20#8] ++ encodeCmd l.cmd
  | none   => encodeCmd l.cmd

/-! ## 4. The opcode table's bit patterns -/

/-- Byte k of an n-byte pattern that the table numbers as 16-bit words, the first byte of each word in its high half
(30_encoding.md section 2: byte 0 in bits [15:8], byte 1 in bits [7:0]); a last byte that stands alone is the low
byte of its word, as the one-byte patterns of the table are. -/
def tableByte (n w k : Nat) : Byte :=
  if k % 2 = 0 ∧ k + 1 < n then BitVec.ofNat 8 (w >>> (16 * (k / 2) + 8)) else BitVec.ofNat 8 (w >>> (16 * (k / 2)))

/-- The bytes of a pattern of the table. -/
def tableBytes (nbits w : Nat) : Bytes := (List.range (nbits / 8)).map (tableByte (nbits / 8) w)

/-- The tagged frames a pattern of the table stands for (log 15). One byte: the READ_BYTES row, whose filler lies above
the pattern and is 0 (RF(1)). Two bytes: a write frame. More: a PSF and an RF(w) (the READ_REGISTER row) where the
bytes are that, else one read frame (the READ_BYTES row). -/
def tableFrames : Bytes → List TaggedFrame
  | []                   => []
  | [a]                  => [(.read, readFrame a 1)]
  | [a, v]               => [(.write, [a, v])]
  | a :: v :: o :: rest =>
    if (decodeFrames [(.write, [a, v]), (.read, o :: rest)]).isSome then [(.write, [a, v]), (.read, o :: rest)]
    else [(.read, a :: v :: o :: rest)]

/-- The instruction the decoder reads from a bit pattern of the table. A pattern that several rows share decodes as
`decodeFrames` says; the rows without a frame have no pattern (log 15). -/
def decodeTableWord (nbits w : Nat) : Option Instr := decodeFrames (tableFrames (tableBytes nbits w))

end Sys2Proof
end

