-- ==== Sys2Proof/Machine/State.lean ====
section
/-! DEFINITION. State: what the block, the caller and the transport hold (10_state.md R20 to R36, and the caller's side of R7,
R103, R246), as plain data; the reasons a step can stop; the state after reset (R36, R240). -/
namespace Sys2Proof.Machine

/-- SESS: the state of the one transport handle (R21, D11). -/
inductive Session where
  /-- CLOSED (0): no handle yet; the reset value. -/
  | closed
  /-- OPEN (1): the handle is open and configured, so commands are accepted. -/
  | opened
  /-- FAILED (2): opening or configuring failed; fatal. -/
  | failed
  /-- RELEASED (3): the handle was released at the end of the session. -/
  | released
  deriving DecidableEq, Repr

/-- CFG: the session configuration (R22 to R27). CFG.BPW is hard-wired and has no storage (R25): see `Cfg.bpw`. -/
structure Cfg where
  /-- CFG.DEVICE (R22). -/
  device  : DeviceId
  /-- CFG.SPEED_HZ, u32 (R23). -/
  speedHz : BitVec 32
  /-- CFG.MODE, u2 (R24); uninterpreted (D24). -/
  mode    : BitVec 2
  /-- CFG.DEBUG, u8 (R26); no effect (D13). -/
  debug   : Byte
  deriving DecidableEq, Repr

/-- DEV.REG as far as a test has fixed it (R59): (device address, byte) pairs, addresses strictly rising and below
0x800. An unlisted address holds no fixed byte; it reads as the free value Config.devContents (log 6). -/
abbrev Memory := List Host.Cell

/-- The device of the device reference model (R59): DEV.PAGE and DEV.REG. -/
structure RefDevice where
  /-- DEV.PAGE, u4 (R32). -/
  page : BitVec 4
  /-- DEV.REG[0x000..0x7FF] (R35, R59). -/
  regs : Memory
  deriving DecidableEq, Repr

/-- A reply as far as it is fixed beforehand; what is `none`, or beyond the list, the oracle draws (log 3). -/
structure PartialReply where
  status : Option Status
  rx     : List (Option Byte)
  deriving DecidableEq, Repr

/-- Who answers the block's exchanges. -/
inductive Answerer where
  /-- The normative oracle (R58). The list holds what is fixed of the next replies, a premise on the oracle (D8, log 3);
  where it is empty every reply is drawn. -/
  | oracle (given : List PartialReply)
  /-- The echo stub (R60), for tests. -/
  | echo
  /-- The device reference model (R59), for tests. -/
  | reference (dev : RefDevice)
  deriving DecidableEq, Repr

/-- The block's side of the transport: HIST, and the transport that answers. -/
structure Wire where
  /-- HIST (R28). -/
  hist    : List Event
  /-- Which oracle answers this run: the parameter ORACLE (R9), the model's own field (log 2). -/
  oracle  : Nat
  /-- The outcome of open, where it is fixed beforehand; none is a draw (R241, log 3). -/
  opens   : Option Bool
  /-- The outcome of configure, where it is fixed beforehand; none is a draw (R242, log 3). -/
  accepts : Option Bool
  /-- Who answers exchanges. -/
  device  : Answerer
  deriving DecidableEq, Repr

/-- The causes of INVALID_ARGUMENT (R211). -/
inductive Cause where
  | pageRange
  | lengthRange
  | width
  deriving DecidableEq, Repr

/-- What a successful command returns (R90). -/
inductive Value where
  /-- `()`. -/
  | unit
  /-- SPLIT: page u4 and offset u7. -/
  | pair (page : BitVec 4) (offset : BitVec 7)
  /-- READ_BYTES and READ_REGISTER: the payload. -/
  | bytes (data : Bytes)
  /-- DECODE_BE and READ_FIELD: the value, a u32 (D15). -/
  | word (value : BitVec 32)
  deriving DecidableEq, Repr

/-- A response: `Ok(result)` or `Err(kind, cause)` (R210). Only INVALID_ARGUMENT has a cause (R211, R212). -/
inductive Response where
  | ok (v : Value)
  | invalidArgument (c : Cause)
  | ioError
  | configError
  deriving DecidableEq, Repr

/-- A response as the caller received it, with the name its line bound (R103). -/
structure Received where
  label    : Option Label
  response : Response
  deriving DecidableEq, Repr

/-- The caller (R7): not block state (R31, R103). -/
structure Caller where
  /-- The steps the caller has still to take, the next one first. -/
  pending : List CallerStep
  /-- The name that the line under way binds to its response (R103). -/
  binder  : Option Label
  /-- The responses received so far, in order. -/
  results : List Received
  deriving DecidableEq, Repr

/-- The whole machine. -/
structure State where
  /-- SESS (R21). -/
  sess   : Session
  /-- Whether a transport handle is held: open succeeded and it is not released (R21, R244; log 7). -/
  handle : Bool
  /-- CFG (R22 to R27). -/
  cfg    : Cfg
  /-- Whether the caller has set CFG (R27, R246: no step may be repeated; log 7). -/
  cfgSet : Bool
  /-- HIST and the transport (R28, R58). -/
  wire   : Wire
  /-- The caller's steps and results (R7, R103). -/
  caller : Caller
  deriving DecidableEq, Repr

/-- No step of this machine faults: an error is a returned value, there is no trap, and no address is refused (R214, R57, R69).
A transport that never returns is not modelled (D20, log 20). -/
inductive Fault where
  deriving DecidableEq, Repr

/-- Why a step is refused: the spec's own refusals (R101), which execute nothing and return nothing. -/
inductive Refusal where
  /-- An instruction that has no meaning yet; raised by exec alone. Safe. No arm raises it. -/
  | notModelled (mnemonic : String)
  /-- SELECT_PAGE, WRITE_BYTE, READ_BYTES, READ_REGISTER or READ_FIELD while SESS is not OPEN (R245, D11). Safe. -/
  | sessionNotOpen
  /-- DECODE_BE with a legal width and data of another length (R101, D14). Safe. -/
  | dataLength
  /-- The row for other widths of DECODE_BE with width 1, 2 or 4: no instruction of that row (R190, log 18). Safe. -/
  | notThisRow
  /-- DECODE_BE of a name that is not bound to the bytes of an earlier result (R103, log 25). Safe. -/
  | unboundName (l : Label)
  /-- A session step out of the order of R246, or repeated (log 9, log 10). A release in FAILED without a handle is no
  such step, however often it comes (log 9). Safe. -/
  | bootOrder
  /-- The caller has no step left: nothing to run (log 16). Nothing is released for it (log 29). Safe. -/
  | noCommand
  deriving DecidableEq, Repr

/-- The state after reset, the start of the process (R36, R240): SESS closed, no handle, CFG at its defaults, HIST empty;
the oracle normative with nothing given; the caller without steps or results (log 7, 12, 16). -/
def State.reset : State where
  sess   := .closed
  handle := false
  cfg    :=
    { device := Config.device, speedHz := Config.defaultSpeedHz, mode := Config.defaultMode,
      debug := Config.defaultDebug }
  cfgSet := false
  wire   := { hist := [], oracle := 0, opens := none, accepts := none, device := .oracle [] }
  caller := { pending := [], binder := none, results := [] }

end Sys2Proof.Machine
end

