-- ==== Sys2Proof/Machine/Operands.lean ====
section
/-! DEFINITION. Operands: the operand forms of the commands (30_encoding.md R90, R97): which values are legal (R98), the payload
of a read (R93), and the data operand that names an earlier result (R103). The address split and the frames are in
Decode.lean. -/
namespace Sys2Proof.Machine

/-- SELECT_PAGE's range check, `page > 0x0F` (R120). -/
def pageTooLarge (page : Byte) : Bool := decide (0x0F#8 < page)

/-- READ_BYTES's precondition violated, `len < 1 or len > 255` (R150). -/
def lengthOutOfRange (len : BitVec 16) : Bool := decide (len < 1#16) || decide (255#16 < len)

/-- `width not in {1, 2, 4}` (R175, R190). -/
def widthUnsupported (width : Byte) : Bool := !isFieldWidth width

/-- `zext_8(page)` and `zext_8(offset)` (R175). -/
def pageOperand (page : BitVec 4) : Byte := page.setWidth 8
def offsetOperand (offset : BitVec 7) : Byte := offset.setWidth 8

/-- `zext_16(width)` (R175). -/
def lengthOperand (width : Byte) : BitVec 16 := width.setWidth 16

/-- The payload `rx[1..len]`: the echo slot rx[0] is discarded (R93, R152). -/
def payload (len : Nat) (rx : Bytes) : Bytes := (rx.drop 1).take len

/-- The response last bound to a name (R103; a name bound again means its last line, log 25). -/
def lookup (l : Label) : List Received → Option Response
  | []      => none
  | r :: rs =>
    match lookup l rs with
    | some x => some x
    | none   => if r.label = some l then some r.response else none

/-- The command record a line gives the block: a data operand that is a name stands for the bytes of that earlier
result (R103). A name without such a result is answered with the name: the record is not well formed. -/
def resolve (results : List Received) : Cmd → Except Label Instr
  | .instr i          => .ok i
  | .decodeResult w l =>
    match lookup l results with
    | some (.ok (.bytes b)) => .ok (Instr.decodeBe w b)
    | _                     => .error l

end Sys2Proof.Machine
end

