-- ==== Sys2Proof/Machine/Flags.lean ====
section
/-! DEFINITION. Flags: the block has no condition flags (10_state.md R31; every rule of the 4N files says 'Flags written: none').
What it computes in their place: the success test of an exchange (41_frame_primitives.md R141, R151), and the codes
of session states and responses (R21, R210, R211), which are labels of the spec's own (D6, D11). -/
namespace Sys2Proof.Machine

/-- An exchange failed: `status < 1`, the status being signed (R29, R141, R151, R212). -/
def exchangeFailed (status : Status) : Bool := decide (status.toInt < 1)

/-- The 2-bit code of SESS (R21). -/
def Session.code : Session → BitVec 2
  | .closed   => 0#2
  | .opened   => 1#2
  | .failed   => 2#2
  | .released => 3#2

/-- The code of a response's kind (R210). -/
def Response.code : Response → Nat
  | .ok _              => 0
  | .invalidArgument _ => 1
  | .ioError           => 2
  | .configError       => 3

/-- The code of a cause (R211). -/
def Cause.code : Cause → Nat
  | .pageRange   => 1
  | .lengthRange => 2
  | .width       => 3

/-- The cause a response carries: only INVALID_ARGUMENT has one (R211, R212). -/
def Response.cause : Response → Option Cause
  | .ok _              => none
  | .invalidArgument c => some c
  | .ioError           => none
  | .configError       => none

/-- Whether a response ends the session: only CONFIG_ERROR does (R210, R212, R213). -/
def Response.fatal : Response → Bool
  | .ok _              => false
  | .invalidArgument _ => false
  | .ioError           => false
  | .configError       => true

/-- CFG.BPW: hard-wired to 8 (R25). -/
def Cfg.bpw (_ : Cfg) : Byte := Config.bpw

end Sys2Proof.Machine
end

