-- ==== Sys2Proof/Machine/Ops.lean ====
section
/-! DEFINITION. Ops: the operations the meanings share. Device register memory (R12, R59); the transport's answers (R58, R59,
R60) and the exchange primitive Xfer (R12, R28, R29); raising an error, which ends a command (R13, R214, R215);
delivering a response to the caller (R210); the session gate (R101, R245); the session steps (R241 to R246). -/
namespace Sys2Proof.Machine

/-! ## Device register memory (the reference model's DEV.REG, R59) -/

/-- The byte listed for a device address. -/
def Memory.get : Memory → Nat → Option Byte
  | [], _          => none
  | (a, b) :: m, x => if a = x then some b else Memory.get m x

/-- List a byte, keeping the canonical form. DEV.REG has the addresses 0x000..0x7FF and no other (R59). -/
def Memory.insert : Memory → Nat → Byte → Memory
  | [], x, v          => [(x, v)]
  | (a, b) :: m, x, v =>
    if x < a then (x, v) :: (a, b) :: m
    else if x = a then (x, v) :: m
    else (a, b) :: Memory.insert m x v

def Memory.set (m : Memory) (x : Nat) (v : Byte) : Memory := if x < Config.laReach then Memory.insert m x v else m

/-- Addresses strictly rise from a lower bound on, and stay below 0x800. -/
def Memory.risingFrom (low : Nat) : Memory → Bool
  | []          => true
  | (a, _) :: m => decide (low ≤ a) && decide (a < Config.laReach) && Memory.risingFrom (a + 1) m

/-- The canonical form: addresses strictly rising and below 0x800. An unlisted address reads as no listed byte, so no
entry can equal it (log 6). -/
def Memory.wf (m : Memory) : Bool := Memory.risingFrom 0 m

/-- DEV.REG[a]: the listed byte, or the free value of an address no test has fixed (log 6). -/
def Memory.byte (oracle : Nat) (m : Memory) (a : Nat) : Byte := (Memory.get m a).getD (Config.devContents oracle a)

/-- MemRead(la, n) (R12). -/
def memRead (oracle : Nat) (m : Memory) (la n : Nat) : Bytes := (List.range n).map fun i => Memory.byte oracle m (la + i)

/-- MemWrite(la, n, v) (R12): how a test fixes DEV.REG. No command writes it (R59). -/
def memWrite (m : Memory) (la : Nat) : Bytes → Memory
  | []      => m
  | v :: vs => memWrite (Memory.set m la v) (la + 1) vs

/-! ## Who answers an exchange -/

/-- A byte of a partial reply: as given, else the oracle's draw. -/
def PartialReply.byte (p : PartialReply) (draw : Nat → Byte) (i : Nat) : Byte := ((p.rx[i]?).getD none).getD (draw i)

/-- A reply completed by the oracle's draws; rx has as many bytes as tx (R29, log 23). -/
def PartialReply.complete (p : PartialReply) (oracle : Nat) (hist : List Event) (k : Kind) (tx : Bytes) : Reply where
  status := p.status.getD (Config.oracleStatus oracle hist k tx)
  rx     := (List.range tx.length).map (p.byte (Config.oracleByte oracle hist k tx))

/-- A reply of which nothing is fixed. -/
def PartialReply.drawn : PartialReply := { status := none, rx := [] }

/-- Payload byte i of a read at wire address a in the reference model: DEV.REG of the current page below 0x7F, any byte at
and beyond it (R59, R65). -/
def RefDevice.payloadByte (d : RefDevice) (oracle : Nat) (a : Byte) (i : Nat) : Option Byte :=
  if a.toNat + i < Config.pageSelAddr.toNat then
    (memRead oracle d.regs (d.page.toNat * Config.pageSize + (a.toNat + i)) 1)[0]?
  else none

/-- The device reference model's answer (R59). A frame of no shape of R100 is never sent; the model draws its reply. -/
def RefDevice.answer (d : RefDevice) (oracle : Nat) (k : Kind) (tx : Bytes) : PartialReply × RefDevice :=
  match k, tx with
  | .write, [a, v]      =>
    ({ status := some 2#32, rx := [none, none] },
      if a = Config.pageSelAddr then { d with page := v.extractLsb' 0 4 } else d)
  | .read, a :: filler  =>
    ({ status := some (BitVec.ofNat 32 (filler.length + 1)),
       rx := none :: (List.range filler.length).map (d.payloadByte oracle a) }, d)
  | _, _                => (.drawn, d)

/-- The reply of whoever answers, and the answerer afterwards. -/
def Answerer.answer (ans : Answerer) (oracle : Nat) (hist : List Event) (k : Kind) (tx : Bytes) : Reply × Answerer :=
  match ans with
  | .oracle []        => (PartialReply.drawn.complete oracle hist k tx, .oracle [])
  | .oracle (g :: gs) => (g.complete oracle hist k tx, .oracle gs)
  | .echo             => ({ status := BitVec.ofNat 32 tx.length, rx := tx }, .echo)
  | .reference d      =>
    ((d.answer oracle k tx).1.complete oracle hist k tx, .reference (d.answer oracle k tx).2)

/-- The reply the next exchange will get. -/
def Wire.reply (w : Wire) (k : Kind) (tx : Bytes) : Reply := (w.device.answer w.oracle w.hist k tx).1

/-- The event an exchange appends to HIST (R28). -/
def Wire.event (w : Wire) (k : Kind) (tx : Bytes) : Event :=
  { kind := k, tx := tx, status := (w.reply k tx).status, rx := (w.reply k tx).rx }

/-- The transport after an exchange: one event more (R28), nothing removed or rewritten. -/
def Wire.exchange (w : Wire) (k : Kind) (tx : Bytes) : Wire :=
  { w with hist := w.hist ++ [w.event k tx], device := (w.device.answer w.oracle w.hist k tx).2 }

/-- Xfer(kind, tx) -> (status, rx): one exchange (R12, R29, R67). The only way the block touches the device. -/
def xfer (k : Kind) (tx : Bytes) (w : Wire) : Reply × Wire := (w.reply k tx, w.exchange k tx)

/-- DEV.PAGE (R32, R33): the reference device's page; under any other answerer any 4-bit value for each history. -/
def Wire.devPage (w : Wire) : BitVec 4 :=
  match w.device with
  | .reference d => d.page
  | .oracle _    => Config.oraclePage w.oracle w.hist
  | .echo        => Config.oraclePage w.oracle w.hist

/-- DEV.REG[a] (R35): the reference device's byte; under any other answerer any byte for each history. -/
def Wire.devReg (w : Wire) (a : Nat) : Byte :=
  match w.device with
  | .reference d => Memory.byte w.oracle d.regs a
  | .oracle _    => Config.oracleReg w.oracle w.hist a
  | .echo        => Config.oracleReg w.oracle w.hist a

/-- The listed bytes of DEV.REG: none unless the reference device is attached. -/
def Wire.regs (w : Wire) : Memory :=
  match w.device with
  | .reference d => d.regs
  | .oracle _    => []
  | .echo        => []

def State.devPage (s : State) : BitVec 4 := s.wire.devPage
def State.devReg (s : State) (a : Nat) : Byte := s.wire.devReg a
def State.regs (s : State) : Memory := s.wire.regs

/-! ## Ending a command -/

/-- `raise`: the command ends with an error response; what it sent stays sent, nothing is rolled back, nothing else
changes (R13, R214, R215). The one way an error is raised; there is no trap to take and no return from one (R220). -/
def raise (e : Response) (w : Wire) : Response × Wire := (e, w)

/-- `return Ok(v)` (R12). -/
def succeed (v : Value) (w : Wire) : Response × Wire := (.ok v, w)

/-! ## Bodies of the frame primitives, which other commands delegate to -/

/-- WRITE_FRAME(a, v) (R140): one write exchange; its receive bytes are discarded (R142). -/
def writeFrameBody (a v : Byte) (w : Wire) : Response × Wire :=
  let x := xfer .write (writeFrame a v) w
  if exchangeFailed x.1.status then raise .ioError x.2 else succeed .unit x.2

/-- The body of SELECT_PAGE (R120). -/
def selectPageBody (page : Byte) (w : Wire) : Response × Wire :=
  if pageTooLarge page then raise (.invalidArgument .pageRange) w
  else writeFrameBody Config.pageSelAddr (pageSelectValue page) w

/-- The body of READ_BYTES (R150): the length check, one read exchange, the payload after the echo slot (R152). -/
def readBytesBody (addr : Byte) (len : BitVec 16) (w : Wire) : Response × Wire :=
  if lengthOutOfRange len then raise (.invalidArgument .lengthRange) w
  else
    let x := xfer .read (readFrame addr len.toNat) w
    if exchangeFailed x.1.status then raise .ioError x.2 else succeed (.bytes (payload len.toNat x.1.rx)) x.2

/-- The body of READ_REGISTER (R175): the width check, SPLIT, SELECT_PAGE, and READ_BYTES unless the select failed
(R176). -/
def readRegisterBody (la : BitVec 16) (width : Byte) (w : Wire) : Response × Wire :=
  if widthUnsupported width then raise (.invalidArgument .width) w
  else
    match selectPageBody (pageOperand (pageOf la)) w with
    | (.ok _, w1) => readBytesBody (offsetOperand (offsetOf la)) (lengthOperand width) w1
    | (e, w1)     => raise e w1

/-! ## The big-endian decoder's formulas -/

/-- DEC1 (R191). -/
def dec1 (d0 : Byte) : BitVec 32 := d0.setWidth 32

/-- DEC2 (R192). -/
def dec2 (d0 d1 : Byte) : BitVec 32 := ((d0.setWidth 16 <<< 8) ||| d1.setWidth 16 : BitVec 16).setWidth 32

/-- DEC4 (R193). -/
def dec4 (d0 d1 d2 d3 : Byte) : BitVec 32 :=
  (d0.setWidth 32 <<< 24) ||| (d1.setWidth 32 <<< 16) ||| (d2.setWidth 32 <<< 8) ||| d3.setWidth 32

/-- DECODE_BE(width, data) (R190): its response, or none where the record is not well formed (R101). -/
def decodeBe (width : Byte) (data : Bytes) : Option Response :=
  if widthUnsupported width then some (.invalidArgument .width)
  else if width = 1#8 then
    match data with
    | [d0] => some (.ok (.word (dec1 d0)))
    | _    => none
  else if width = 2#8 then
    match data with
    | [d0, d1] => some (.ok (.word (dec2 d0 d1)))
    | _        => none
  else
    match data with
    | [d0, d1, d2, d3] => some (.ok (.word (dec4 d0 d1 d2 d3)))
    | _                => none

/-- The second line of READ_FIELD (R104): DECODE_BE of READ_REGISTER's bytes; an error of READ_REGISTER is the result
as it is, and DECODE_BE is not issued. A payload always has the width's length, so that DECODE_BE of it is well formed
and the last case does not arise. -/
def decodeResponse (width : Byte) (r : Response) : Response :=
  match r with
  | .ok (.bytes data) =>
    match decodeBe width data with
    | some r' => r'
    | none    => r
  | e => e

/-- The body of READ_FIELD (R104), one step for the caller (log 13). -/
def readFieldBody (la : BitVec 16) (width : Byte) (w : Wire) : Response × Wire :=
  let x := readRegisterBody la width w
  (decodeResponse width x.1, x.2)

/-! ## Delivering a response -/

/-- The response reaches the caller, under the name its line binds (R103, R210, R214; log 12). -/
def Caller.receive (c : Caller) (r : Response) : Caller :=
  { c with binder := none, results := c.results ++ [⟨c.binder, r⟩] }

/-- The state after a command: the transport as its body left it and its response delivered. Nothing else changes. -/
def State.finish (s : State) (x : Response × Wire) : State :=
  { s with wire := x.2, caller := s.caller.receive x.1 }

/-- A command that touches no transport is accepted in every session state (R245). -/
def ungated (r : Option Response) (s : State) : Host.Outcome State Fault Refusal :=
  match r with
  | some r => .next (s.finish (r, s.wire))
  | none   => .refused .dataLength

/-- The session gate (R101, R245): a command that touches the transport runs only when SESS = OPEN. -/
def gated (body : Wire → Response × Wire) (s : State) : Host.Outcome State Fault Refusal :=
  match s.sess with
  | .opened   => .next (s.finish (body s.wire))
  | .closed   => .refused .sessionNotOpen
  | .failed   => .refused .sessionNotOpen
  | .released => .refused .sessionNotOpen

/-! ## Session steps (70_reset_and_hazards.md section 2), and the order of R246 -/

/-- The transport's answer to open (R241). -/
def Wire.opensDevice (w : Wire) (c : Cfg) : Bool := w.opens.getD (Config.transportOpens w.oracle c.device)

/-- The transport's answer to configure: mode, word size and speed as one step (R242). -/
def Wire.acceptsSettings (w : Wire) (c : Cfg) : Bool :=
  w.accepts.getD (Config.transportAccepts w.oracle c.device c.mode c.bpw c.speedHz)

/-- R246 step 1: the caller sets CFG once, before open (R27). Out of order or repeated: refused (log 10). -/
def setConfig (c : Cfg) (s : State) : Host.Outcome State Fault Refusal :=
  match s.sess, s.cfgSet with
  | .closed, false => .next { s with cfg := c, cfgSet := true }
  | _, _           => .refused .bootOrder

/-- Configure (R242): on rejection FAILED and CONFIG_ERROR, on acceptance OPEN and Ok(()). No event is recorded. -/
def State.configure (s : State) : State :=
  if s.wire.acceptsSettings s.cfg then { s with sess := .opened, caller := s.caller.receive (.ok .unit) }
  else { s with sess := .failed, caller := s.caller.receive .configError }

/-- Open (R241), followed at once by configure when it succeeds (log 8). Only from CLOSED, and never repeated (R243,
R246). -/
def openSession (s : State) : Host.Outcome State Fault Refusal :=
  match s.sess with
  | .closed   =>
    .next (if s.wire.opensDevice s.cfg then State.configure { s with handle := true }
      else { s with sess := .failed, caller := s.caller.receive .configError })
  | .opened   => .refused .bootOrder
  | .failed   => .refused .bootOrder
  | .released => .refused .bootOrder

/-- Release (R244): the handle is released, once. Where open itself failed there is no handle, and SESS stays FAILED. Before
open and after release there is nothing to release: refused (log 9). In FAILED without a handle every release is a next
state with nothing changed, a second one too: DESIGN CHOICE, no handle was released, so none is released twice (log 9). It is
a step of the caller's, and nothing else releases: DESIGN CHOICE, R244 names no agent (log 29). -/
def releaseSession (s : State) : Host.Outcome State Fault Refusal :=
  match s.sess, s.handle with
  | .opened, _     => .next { s with sess := .released, handle := false }
  | .failed, true  => .next { s with sess := .released, handle := false }
  | .failed, false => .next s
  | .closed, _     => .refused .bootOrder
  | .released, _   => .refused .bootOrder

/-! ## The caller's list of steps -/

/-- The caller issues its next step: it leaves the list, and the name of its line, if any, awaits the response. -/
def State.issue (s : State) (binder : Option Label) (rest : List CallerStep) : State :=
  { s with caller := { s.caller with pending := rest, binder := binder } }

/-- The caller takes back a step that was refused and goes on with the next (log 11). -/
def State.withdraw (s : State) : State :=
  { s with caller := { s.caller with pending := s.caller.pending.drop 1 } }

/-- A list of steps for the caller to take, loaded from outside (log 16). -/
def State.load (s : State) (steps : List CallerStep) : State :=
  { s with caller := { s.caller with pending := steps } }

end Sys2Proof.Machine
end

