-- ==== Sys2Proof/Machine/BigEndian.lean ====
section
/-! DEFINITION. The big-endian decoder (43_be_decode.md), one meaning per row of the table. -/
namespace Sys2Proof.Machine

/-- DECODE_BE with width 1 (R190, R191). -/
def execDecodeBe1 (data : Bytes) (s : State) : Host.Outcome State Fault Refusal := ungated (decodeBe 1#8 data) s

/-- DECODE_BE with width 2 (R190, R192). -/
def execDecodeBe2 (data : Bytes) (s : State) : Host.Outcome State Fault Refusal := ungated (decodeBe 2#8 data) s

/-- DECODE_BE with width 4 (R190, R193). -/
def execDecodeBe4 (data : Bytes) (s : State) : Host.Outcome State Fault Refusal := ungated (decodeBe 4#8 data) s

/-- DECODE_BE with another width (R190). A record of this row with width 1, 2 or 4 is none of this row (log 18). -/
def execDecodeBeOther (width : Byte) (data : Bytes) (s : State) : Host.Outcome State Fault Refusal :=
  if widthUnsupported width then ungated (decodeBe width data) s else .refused .notThisRow

end Sys2Proof.Machine
end

