-- ==== Sys2Proof/Machine/FramePrimitives.lean ====
section
/-! DEFINITION. The frame primitives (41_frame_primitives.md). -/
namespace Sys2Proof.Machine

/-- WRITE_BYTE addr, value (R140 to R143). -/
def execWriteByte (addr value : Byte) (s : State) : Host.Outcome State Fault Refusal :=
  gated (writeFrameBody addr value) s

/-- READ_BYTES addr, len (R150 to R154). -/
def execReadBytes (addr : Byte) (len : BitVec 16) (s : State) : Host.Outcome State Fault Refusal :=
  gated (readBytesBody addr len) s

end Sys2Proof.Machine
end

