-- ==== Sys2Proof/Machine/PageSelect.lean ====
section
/-! DEFINITION. The page selector (40_page_select.md). -/
namespace Sys2Proof.Machine

/-- SELECT_PAGE page (R120 to R122). -/
def execSelectPage (page : Byte) (s : State) : Host.Outcome State Fault Refusal := gated (selectPageBody page) s

end Sys2Proof.Machine
end

