-- ==== Sys2Proof/Machine/RegisterReader.lean ====
section
/-! DEFINITION. The address decoder and the logical register reader (42_register_reader.md), and the pseudo-command READ_FIELD
(30_encoding.md R104). -/
namespace Sys2Proof.Machine

/-- SPLIT la (R170, R171). -/
def execSplit (la : BitVec 16) (s : State) : Host.Outcome State Fault Refusal :=
  ungated (some (.ok (.pair (pageOf la) (offsetOf la)))) s

/-- READ_REGISTER la, width (R175 to R178). The gate is checked once (R175). -/
def execReadRegister (la : BitVec 16) (width : Byte) (s : State) : Host.Outcome State Fault Refusal :=
  gated (readRegisterBody la width) s

/-- READ_FIELD la, width (R104). -/
def execReadField (la : BitVec 16) (width : Byte) (s : State) : Host.Outcome State Fault Refusal :=
  gated (readFieldBody la width) s

end Sys2Proof.Machine
end

