-- ==== Sys2Proof/Machine/Dispatch.lean ====
section
/-! DEFINITION. Dispatch: one arm per row of spec/opcode_table.json. -/
namespace Sys2Proof.Machine

/-- The effect of a command given to the block (00_scope.md R8). -/
def exec (i : Instr) (s : State) : Host.Outcome State Fault Refusal :=
  match i with
  | .split la => Sys2Proof.Machine.execSplit la s
  | .selectPage page => Sys2Proof.Machine.execSelectPage page s
  | .writeByte addr value => Sys2Proof.Machine.execWriteByte addr value s
  | .readBytes addr len => Sys2Proof.Machine.execReadBytes addr len s
  | .readRegister la width => Sys2Proof.Machine.execReadRegister la width s
  | .decodeBe1 data => Sys2Proof.Machine.execDecodeBe1 data s
  | .decodeBe2 data => Sys2Proof.Machine.execDecodeBe2 data s
  | .decodeBe4 data => Sys2Proof.Machine.execDecodeBe4 data s
  | .decodeBeOther width data => Sys2Proof.Machine.execDecodeBeOther width data s
  | .readField la width => Sys2Proof.Machine.execReadField la width s

end Sys2Proof.Machine
end

