-- ==== Sys2Proof/Machine/Step.lean ====
section
/-! DEFINITION. Step: the caller issues its next step and the block carries it out (00_scope.md R7, R8). A program is the list of
the caller's steps; there is no instruction memory and no program counter (R31, R70). -/
namespace Sys2Proof.Machine

/-- One step. A line gives the block a command record, its name operand resolved (R103), and the record runs as exec
says. With no step left there is nothing to run (log 16).
DESIGN CHOICE: R244 says that every exit path releases the handle and does not say who does it; here only a releaseSession
step of the caller's list does, and a list that ends or stops on a refusal without one leaves SESS and the handle as they
are (log 29). -/
def step (s : State) : Host.Outcome State Fault Refusal :=
  match s.caller.pending with
  | [] => .refused .noCommand
  | .setConfig device speedHz mode debug :: rest => setConfig ⟨device, speedHz, mode, debug⟩ (s.issue none rest)
  | .openSession :: rest => openSession (s.issue none rest)
  | .releaseSession :: rest => releaseSession (s.issue none rest)
  | .line l :: rest =>
    match resolve s.caller.results l.cmd with
    | .ok i    => exec i (s.issue l.label rest)
    | .error n => .refused (.unboundName n)

/-- The state whose next step gives the block command i: i is the caller's next line, and the session is open where i
needs it (R245), since a command is accepted only then (log 16). -/
def State.withNext (s : State) (i : Instr) : State :=
  { s with
    sess   := if i.gated then .opened else s.sess
    handle := if i.gated then true else s.handle
    caller := { s.caller with pending := .line ⟨none, .instr i⟩ :: s.caller.pending } }

/-- The command that the decoder reads from a table pattern is the caller's next line (log 15, log 16). A pattern that
decodes to nothing changes nothing. -/
def State.withFetchWord (s : State) (nbits w : Nat) : State :=
  match decodeTableWord nbits w with
  | some i => s.withNext i
  | none   => s

end Sys2Proof.Machine
end

