-- ==== Sys2Proof/Safety.lean ====
section
/-! DEFINITION. Safety: the terms in which statements are made. What the spec's rules say of a state after a command, spelled out
field by field; the invariant that every step keeps; which commands a state accepts. -/
namespace Sys2Proof

/-- An event of HIST is a write frame or a read frame (R91, R92, R100) and has a reply of its length (R29). -/
def Event.wf (e : Event) : Bool := (decodeFrame e.sent).isSome && e.rx.length == e.tx.length

/-- The command a run of frames decodes to (R52, R104, R143): an alias of a logical address gives the address below
0x800, READ_FIELD gives READ_REGISTER, and a WRITE_BYTE of a page index to 0x7F gives SELECT_PAGE. -/
def Instr.canonical : Instr → Instr
  | .writeByte a v      => if a = Config.pageSelAddr ∧ v ≤ 0x0F#8 then .selectPage v else .writeByte a v
  | .readRegister la w  => .readRegister (la &&& 0x07FF#16) w
  | .readField la w     => .readRegister (la &&& 0x07FF#16) w
  | .split la           => .split la
  | .selectPage page    => .selectPage page
  | .readBytes a len    => .readBytes a len
  | .decodeBe1 d        => .decodeBe1 d
  | .decodeBe2 d        => .decodeBe2 d
  | .decodeBe4 d        => .decodeBe4 d
  | .decodeBeOther w d  => .decodeBeOther w d

/-- A byte sequence as one unsigned number, the first byte the most significant: the sum of d[i]·256^(n-1-i) (R62,
R194). -/
def bigEndianValue : Bytes → Nat
  | []      => 0
  | b :: bs => b.toNat * 256 ^ bs.length + bigEndianValue bs

end Sys2Proof

namespace Sys2Proof.Machine

/-- The state s after a command that leaves the transport as w and answers r: the transport is w, the caller has r under
the awaited name, and no name is awaited any more. Every other field is as it was: SESS, the handle, CFG, the caller's
remaining steps (R20, R27, R210). -/
def State.answered (s : State) (w : Wire) (r : Response) : State where
  sess   := s.sess
  handle := s.handle
  cfg    := s.cfg
  cfgSet := s.cfgSet
  wire   := w
  caller :=
    { pending := s.caller.pending, binder := none, results := s.caller.results ++ [⟨s.caller.binder, r⟩] }

/-- The last response the caller received. -/
def State.lastResponse (s : State) : Option Response := s.caller.results.getLast?.map Received.response

/-- The events that t has beyond s, when t's history continues s's. -/
def State.newEvents (s t : State) : List Event := t.wire.hist.drop s.wire.hist.length

/-- The conditions under which a command is accepted (R101): it is well formed, and the session is open if it touches
the transport (R245). -/
def State.Accepts (s : State) (i : Instr) : Prop := i.wf = true ∧ (i.gated = true → s.sess = .opened)

/-- SESS and the handle agree (R21, R241 to R244): no handle when CLOSED or RELEASED, one when OPEN; FAILED has one
exactly when open had succeeded. -/
def State.sessionWf (s : State) : Bool :=
  match s.sess with
  | .closed   => !s.handle
  | .opened   => s.handle
  | .failed   => true
  | .released => !s.handle

/-- The invariant of the machine. -/
structure State.Inv (s : State) : Prop where
  /-- HIST holds only the two frame shapes, each with a reply of its length. -/
  hist    : ∀ e ∈ s.wire.hist, e.wf = true
  /-- SESS and the handle agree. -/
  session : s.sessionWf = true
  /-- DEV.REG, where it is held, is in its canonical form. -/
  regs    : Memory.wf s.regs = true

/-- The state with another debug level (R26). -/
def State.withDebug (s : State) (d : Byte) : State := { s with cfg := { s.cfg with debug := d } }

/-- What two outcomes let the outside see: HIST and the transport, SESS and the handle, every response, or the reason
of a refusal. -/
def SameOutside : Host.Outcome State Fault Refusal → Host.Outcome State Fault Refusal → Prop
  | .next t, .next u       =>
    t.wire = u.wire ∧ t.sess = u.sess ∧ t.handle = u.handle ∧ t.caller = u.caller
  | .refused a, .refused b => a = b
  | _, _                   => False

end Sys2Proof.Machine
end

