-- ==== Sys2Proof/Certificates/Slice0/Obligations.lean ====
section
/-! DEFINITION. The statements about the SPI paged register reader, in the order of OBLIGATIONS.json. Each docstring names the rules
it formalises or rests on; where a clause is a choice of the spec's own (a decision D<n>) or of the model's (log <n>),
it says so. A statement about a reply holds for every reply: `Wire.reply` is whatever the transport answers. -/

open Sys2Proof Sys2Proof.Machine

/-! ## The address decoder -/

/-- R170: SPLIT returns page = la[10:7] and offset = la[6:0], has no error, may be used in any session state, and neither
reads nor writes block state. -/
def Obligations.SplitReturnsPageAndOffset : Prop :=
  ∀ (la : BitVec 16) (s : State),
    exec (.split la) s = .next (s.answered s.wire (.ok (.pair (la.extractLsb' 7 4) (la.extractLsb' 0 7))))

/-- R51 (a derived rule): below 0x800 the split is undone by page*0x80 + offset, every (page, offset) pair is reached by exactly
one such address, and every address splits as its low eleven bits do. -/
def Obligations.SplitReachesEachRegisterByteOnce : Prop :=
  (∀ la : BitVec 16, (pageOf la).toNat * 0x80 + (offsetOf la).toNat = la.toNat % 0x800) ∧
  (∀ (p : BitVec 4) (o : BitVec 7), ∃ la : BitVec 16,
    (la.toNat < 0x800 ∧ pageOf la = p ∧ offsetOf la = o) ∧
      ∀ lb : BitVec 16, lb.toNat < 0x800 → pageOf lb = p → offsetOf lb = o → lb = la)

/-- R52 (decision D4): bits la[15:11] are ignored, so every command with a logical address does in every state what it does
with la & 0x7FF. -/
def Obligations.HighAddressesAlias : Prop :=
  ∀ (la : BitVec 16) (width : Byte) (s : State),
    exec (.split la) s = exec (.split (la &&& 0x07FF#16)) s ∧
    exec (.readRegister la width) s = exec (.readRegister (la &&& 0x07FF#16) width) s ∧
    exec (.readField la width) s = exec (.readField (la &&& 0x07FF#16) width) s

/-! ## The frame primitives and the page selector -/

/-- R120: SELECT_PAGE rejects a page above 0x0F before any exchange; otherwise it sends [0x7F, page] as one write exchange and
succeeds unless the status is below 1. Nothing else changes. -/
def Obligations.SelectPageSendsOneFrame : Prop :=
  ∀ (page : Byte) (s : State), s.sess = .opened →
    (0x0F#8 < page →
      exec (.selectPage page) s = .next (s.answered s.wire (.invalidArgument .pageRange))) ∧
    (page ≤ 0x0F#8 →
      exec (.selectPage page) s =
        .next (s.answered (s.wire.exchange .write [0x7F#8, page])
          (if (s.wire.reply .write [0x7F#8, page]).status.toInt < 1 then .ioError else .ok .unit)))

/-- R140: WRITE_BYTE sends [addr, value] as one write exchange and succeeds unless the status is below 1. Nothing else
changes. -/
def Obligations.WriteByteSendsOneFrame : Prop :=
  ∀ (addr value : Byte) (s : State), s.sess = .opened →
    exec (.writeByte addr value) s =
      .next (s.answered (s.wire.exchange .write [addr, value])
        (if (s.wire.reply .write [addr, value]).status.toInt < 1 then .ioError else .ok .unit))

/-- R143 (first corner case): WRITE_BYTE of a page index to 0x7F is SELECT_PAGE of it, in every state. -/
def Obligations.WriteByteToPageSelectIsSelectPage : Prop :=
  ∀ (page : Byte) (s : State), page ≤ 0x0F#8 → exec (.writeByte 0x7F#8 page) s = exec (.selectPage page) s

/-- R142: the receive bytes of a write exchange reach no response, state or error, only the HIST event. Take two open sessions whose
transports report the same status for the write, with whatever bytes. WRITE_BYTE, and SELECT_PAGE with a legal page, give
the same response in both, leave the same session, configuration and caller's list, and record each its own bytes. So do
READ_REGISTER and READ_FIELD with a legal width (the write is their select) when the read after the select, if it is made,
gets the same reply in both; the event of the select alone holds its bytes. -/
def Obligations.WriteReceiveBytesDiscarded : Prop :=
  ∀ s₁ s₂ : State, s₁.sess = .opened → s₂.sess = .opened →
    (∀ addr value : Byte,
      (s₁.wire.reply .write [addr, value]).status = (s₂.wire.reply .write [addr, value]).status →
      ∃ (r : Response) (w₁ w₂ : Wire),
        exec (.writeByte addr value) s₁ = .next (s₁.answered w₁ r) ∧
        exec (.writeByte addr value) s₂ = .next (s₂.answered w₂ r) ∧
        w₁.hist = s₁.wire.hist ++ [⟨.write, [addr, value], (s₁.wire.reply .write [addr, value]).status,
          (s₁.wire.reply .write [addr, value]).rx⟩] ∧
        w₂.hist = s₂.wire.hist ++ [⟨.write, [addr, value], (s₂.wire.reply .write [addr, value]).status,
          (s₂.wire.reply .write [addr, value]).rx⟩]) ∧
    (∀ page : Byte, page ≤ 0x0F#8 →
      (s₁.wire.reply .write [0x7F#8, page]).status = (s₂.wire.reply .write [0x7F#8, page]).status →
      ∃ (r : Response) (w₁ w₂ : Wire),
        exec (.selectPage page) s₁ = .next (s₁.answered w₁ r) ∧
        exec (.selectPage page) s₂ = .next (s₂.answered w₂ r) ∧
        w₁.hist = s₁.wire.hist ++ [⟨.write, [0x7F#8, page], (s₁.wire.reply .write [0x7F#8, page]).status,
          (s₁.wire.reply .write [0x7F#8, page]).rx⟩] ∧
        w₂.hist = s₂.wire.hist ++ [⟨.write, [0x7F#8, page], (s₂.wire.reply .write [0x7F#8, page]).status,
          (s₂.wire.reply .write [0x7F#8, page]).rx⟩]) ∧
    (∀ (la : BitVec 16) (width : Byte), (width = 1#8 ∨ width = 2#8 ∨ width = 4#8) →
      let sel : Bytes := [0x7F#8, (la.extractLsb' 7 4).setWidth 8]
      let rd : Bytes := (la.extractLsb' 0 7).setWidth 8 :: List.replicate width.toNat 0x00#8
      (s₁.wire.reply .write sel).status = (s₂.wire.reply .write sel).status →
      (1 ≤ (s₁.wire.reply .write sel).status.toInt →
        (s₁.wire.exchange .write sel).reply .read rd = (s₂.wire.exchange .write sel).reply .read rd) →
      ∃ (r f : Response) (w₁ w₂ : Wire) (after : List Event),
        exec (.readRegister la width) s₁ = .next (s₁.answered w₁ r) ∧
        exec (.readRegister la width) s₂ = .next (s₂.answered w₂ r) ∧
        exec (.readField la width) s₁ = .next (s₁.answered w₁ f) ∧
        exec (.readField la width) s₂ = .next (s₂.answered w₂ f) ∧
        w₁.hist = s₁.wire.hist ++
          ⟨.write, sel, (s₁.wire.reply .write sel).status, (s₁.wire.reply .write sel).rx⟩ :: after ∧
        w₂.hist = s₂.wire.hist ++
          ⟨.write, sel, (s₂.wire.reply .write sel).status, (s₂.wire.reply .write sel).rx⟩ :: after)

/-- R150: READ_BYTES rejects a length of 0 or above 255 before any exchange; otherwise it sends [addr] ++ [0x00]*len as one read
exchange, fails if the status is below 1, and else returns rx[1..len], which has len bytes. -/
def Obligations.ReadBytesReturnsPayload : Prop :=
  ∀ (addr : Byte) (len : BitVec 16) (s : State), s.sess = .opened →
    (len = 0#16 ∨ 255#16 < len →
      exec (.readBytes addr len) s = .next (s.answered s.wire (.invalidArgument .lengthRange))) ∧
    (1#16 ≤ len → len ≤ 255#16 →
      exec (.readBytes addr len) s =
        .next (s.answered (s.wire.exchange .read (addr :: List.replicate len.toNat 0x00#8))
          (if (s.wire.reply .read (addr :: List.replicate len.toNat 0x00#8)).status.toInt < 1 then .ioError
            else .ok (.bytes ((s.wire.reply .read (addr :: List.replicate len.toNat 0x00#8)).rx.drop 1)))) ∧
      ((s.wire.reply .read (addr :: List.replicate len.toNat 0x00#8)).rx.drop 1).length = len.toNat)

/-- R152 (decision D10): the echo slot is ignored. Replies that agree on the status and on rx[1..] give the same response, whatever
rx[0] is. -/
def Obligations.EchoSlotIgnored : Prop :=
  ∀ (addr : Byte) (len : BitVec 16) (s₁ s₂ t₁ t₂ : State),
    (s₁.wire.reply .read (addr :: List.replicate len.toNat 0x00#8)).status =
      (s₂.wire.reply .read (addr :: List.replicate len.toNat 0x00#8)).status →
    (s₁.wire.reply .read (addr :: List.replicate len.toNat 0x00#8)).rx.drop 1 =
      (s₂.wire.reply .read (addr :: List.replicate len.toNat 0x00#8)).rx.drop 1 →
    exec (.readBytes addr len) s₁ = .next t₁ → exec (.readBytes addr len) s₂ = .next t₂ →
    t₁.lastResponse = t₂.lastResponse

/-! ## The logical register reader -/

/-- R175 (the width check first is decision D5): READ_REGISTER rejects an unsupported width before any exchange; otherwise it
selects la[10:7]; if that fails it returns IoError and reads nothing (R176); else it reads width bytes at la[6:0] and
returns that result. -/
def Obligations.ReadRegisterSelectsThenReads : Prop :=
  ∀ (la : BitVec 16) (width : Byte) (s : State), s.sess = .opened →
    (¬(width = 1#8 ∨ width = 2#8 ∨ width = 4#8) →
      exec (.readRegister la width) s = .next (s.answered s.wire (.invalidArgument .width))) ∧
    ((width = 1#8 ∨ width = 2#8 ∨ width = 4#8) →
      let sel : Bytes := [0x7F#8, (la.extractLsb' 7 4).setWidth 8]
      let rd : Bytes := (la.extractLsb' 0 7).setWidth 8 :: List.replicate width.toNat 0x00#8
      let w₁ := s.wire.exchange .write sel
      ((s.wire.reply .write sel).status.toInt < 1 →
        exec (.readRegister la width) s = .next (s.answered w₁ .ioError)) ∧
      (1 ≤ (s.wire.reply .write sel).status.toInt →
        exec (.readRegister la width) s =
          .next (s.answered (w₁.exchange .read rd)
            (if (w₁.reply .read rd).status.toInt < 1 then .ioError else .ok (.bytes ((w₁.reply .read rd).rx.drop 1))))))

/-- R248: whatever HIST holds, and so whatever was selected before, a READ_REGISTER of a legal width sends its own select first,
and its read, if it sends one, comes immediately after. -/
def Obligations.EveryReadSelectsItsPage : Prop :=
  ∀ (la : BitVec 16) (width : Byte) (s t : State), (width = 1#8 ∨ width = 2#8 ∨ width = 4#8) →
    exec (.readRegister la width) s = .next t →
    ∃ e : Event, e.kind = .write ∧ e.tx = [0x7F#8, (la.extractLsb' 7 4).setWidth 8] ∧
      (t.wire.hist = s.wire.hist ++ [e] ∨
        ∃ f : Event, f.kind = .read ∧
          f.tx = (la.extractLsb' 0 7).setWidth 8 :: List.replicate width.toNat 0x00#8 ∧
          t.wire.hist = s.wire.hist ++ [e, f])

/-- R250 (a derived rule): SELECT_PAGE p and then READ_BYTES o, L with L in 1, 2, 4 makes READ_REGISTER's two exchanges and ends in
its response, when nothing comes between and the select succeeds. -/
def Obligations.SelectThenReadIsReadRegister : Prop :=
  ∀ (la : BitVec 16) (width : Byte) (s t : State), (width = 1#8 ∨ width = 2#8 ∨ width = 4#8) →
    exec (.selectPage ((pageOf la).setWidth 8)) s = .next t → t.lastResponse = some (.ok .unit) →
    ∃ u v : State,
      exec (.readBytes ((offsetOf la).setWidth 8) (width.setWidth 16)) t = .next u ∧
      exec (.readRegister la width) s = .next v ∧ v.wire = u.wire ∧ v.lastResponse = u.lastResponse

/-- R56 with R251: the fixed registers are the four of R56's table, with their addresses and widths; each of them lies inside its page
(offset + width ≤ 0x7F), and READ_REGISTER of it, when the select succeeds, sends the page select of page 0 and the read
of its offset. -/
def Obligations.FixedRegistersAreReadWhole : Prop :=
  Config.fixedRegisters.map (fun r => (r.la, r.width)) =
    [(0x0001#16, 2#8), (0x0003#16, 2#8), (0x0005#16, 2#8), (0x0007#16, 4#8)] ∧
  ∀ r ∈ Config.fixedRegisters, ∀ s : State, s.sess = .opened →
    1 ≤ (s.wire.reply .write [0x7F#8, 0x00#8]).status.toInt →
    pageOf r.la = 0#4 ∧ (offsetOf r.la).toNat + r.width.toNat ≤ 0x7F ∧
    ∃ t : State, exec (.readRegister r.la r.width) s = .next t ∧
      (s.newEvents t).map Event.sent =
        [(.write, [0x7F#8, 0x00#8]), (.read, r.la.setWidth 8 :: List.replicate r.width.toNat 0x00#8)]

/-- R104 (as one step of the caller: log 13): READ_FIELD is READ_REGISTER with its payload decoded as a big-endian number; an error of
READ_REGISTER is READ_FIELD's result as it is. -/
def Obligations.ReadFieldDecodesTheRegister : Prop :=
  ∀ (la : BitVec 16) (width : Byte) (s : State), s.sess = .opened →
    ∃ (w : Wire) (r : Response),
      exec (.readRegister la width) s = .next (s.answered w r) ∧
      ((∃ data : Bytes, r = .ok (.bytes data) ∧ data.length = width.toNat ∧
          exec (.readField la width) s =
            .next (s.answered w (.ok (.word (BitVec.ofNat 32 (bigEndianValue data)))))) ∨
        ((∀ v, r ≠ .ok v) ∧ exec (.readField la width) s = .next (s.answered w r)))

/-- R104: the two lines that READ_FIELD expands to, `t = read_register la, w` and `v = decode_be w, t`, issued one after the other,
leave the transport as READ_FIELD does and end in its response. Where the first is an error it is READ_FIELD's response
and DECODE_BE is not issued (R104). The model's choices: READ_FIELD is one command of exec (log 13), and the line whose
name is bound to an error is refused by name, unboundName (log 25); R104 says only that it is not issued. -/
def Obligations.ReadFieldMatchesItsExpansion : Prop :=
  ∀ (la : BitVec 16) (width : Byte) (s : State), s.sess = .opened →
    ∃ t u : State,
      step (s.load ((readFieldExpansion la width).map .line)) = .next t ∧
      exec (.readField la width) s = .next u ∧
      ((∃ v : State, step t = .next v ∧ v.wire = u.wire ∧ v.lastResponse = u.lastResponse) ∨
        (step t = .refused (.unboundName [0x74#8]) ∧ t.wire = u.wire ∧ t.lastResponse = u.lastResponse))

/-! ## The big-endian decoder -/

/-- R191: width 1 gives the byte, zero-extended. -/
def Obligations.DecodeOneByte : Prop :=
  ∀ (d0 : Byte) (s : State),
    exec (.decodeBe1 [d0]) s = .next (s.answered s.wire (.ok (.word (d0.setWidth 32)))) ∧
      (d0.setWidth 32 : BitVec 32).toNat ≤ 0xFF

/-- R192: width 2 gives (d[0] << 8) | d[1]. -/
def Obligations.DecodeTwoBytes : Prop :=
  ∀ (d0 d1 : Byte) (s : State),
    exec (.decodeBe2 [d0, d1]) s =
      .next (s.answered s.wire
        (.ok (.word (((d0.setWidth 16 <<< 8) ||| d1.setWidth 16 : BitVec 16).setWidth 32)))) ∧
      (((d0.setWidth 16 <<< 8) ||| d1.setWidth 16 : BitVec 16).setWidth 32 : BitVec 32).toNat ≤ 0xFFFF

/-- R193: width 4 gives (d[0] << 24) | (d[1] << 16) | (d[2] << 8) | d[3] in 32-bit arithmetic. -/
def Obligations.DecodeFourBytes : Prop :=
  ∀ (d0 d1 d2 d3 : Byte) (s : State),
    exec (.decodeBe4 [d0, d1, d2, d3]) s =
      .next (s.answered s.wire
        (.ok (.word ((d0.setWidth 32 <<< 24) ||| (d1.setWidth 32 <<< 16) ||| (d2.setWidth 32 <<< 8) |||
          d3.setWidth 32))))

/-- R190: DECODE_BE with a width outside 1, 2, 4 returns InvalidArgument(WIDTH), whatever the data and the session. -/
def Obligations.DecodeRejectsOtherWidths : Prop :=
  ∀ (width : Byte) (data : Bytes) (s : State), ¬(width = 1#8 ∨ width = 2#8 ∨ width = 4#8) →
    exec (.decodeBeOther width data) s = .next (s.answered s.wire (.invalidArgument .width))

/-- R194 and R195 (derived rules; the u32 is decision D15): for every legal width the decoded value is the unsigned sum
Σ d[i]·256^(width−1−i), is below 256^width, and encoding it back big-endian gives the data. -/
def Obligations.DecodedValueIsBigEndianSum : Prop :=
  ∀ (width : Byte) (data : Bytes) (s : State), (width = 1#8 ∨ width = 2#8 ∨ width = 4#8) →
    data.length = width.toNat →
    ∃ v : BitVec 32, exec (Instr.decodeBe width data) s = .next (s.answered s.wire (.ok (.word v))) ∧
      v.toNat = bigEndianValue data ∧ v.toNat < 256 ^ width.toNat ∧
      data = (List.range width.toNat).map fun i => v.extractLsb' (8 * (width.toNat - 1 - i)) 8

/-- R101, second condition (decision D14): a DECODE_BE row given data of another length is refused, in every state. -/
def Obligations.DecodeRefusesWrongLength : Prop :=
  ∀ (data : Bytes) (s : State),
    (data.length ≠ 1 → exec (.decodeBe1 data) s = .refused .dataLength) ∧
    (data.length ≠ 2 → exec (.decodeBe2 data) s = .refused .dataLength) ∧
    (data.length ≠ 4 → exec (.decodeBe4 data) s = .refused .dataLength)

/-! ## All commands: acceptance, frames, errors -/

/-- R245 (decision D11): a command that touches the transport is refused in every session state but OPEN. -/
def Obligations.TransportCommandsNeedOpenSession : Prop :=
  ∀ (i : Instr) (s : State), i.gated = true → s.sess ≠ .opened → exec i s = .refused .sessionNotOpen

/-- R101 and R210: every well-formed command, its session open if it needs one, completes with exactly one response; and no other
record does: it is refused. The refusals are the spec's own decisions D11 (a transport command while SESS is not OPEN)
and D14 (DECODE_BE data of another length than a legal width). That the row for other widths is refused for width 1, 2 or
4, which is no record of that row, is the model's choice (log 18). -/
def Obligations.AcceptedCommandsAnswerOnce : Prop :=
  ∀ (i : Instr) (s : State),
    (s.Accepts i → ∃ (w : Wire) (r : Response), exec i s = .next (s.answered w r)) ∧
    (¬s.Accepts i → ∃ q : Refusal, exec i s = .refused q)

/-- R20 and R27: the frame of every command. A command that completes leaves SESS, the handle, CFG and the caller's remaining steps
as they were, and the transport's parameters too; HIST only grows; the caller gets one response under the awaited name. -/
def Obligations.CommandsChangeOnlyHistoryAndResults : Prop :=
  ∀ (i : Instr) (s t : State), exec i s = .next t →
    t.sess = s.sess ∧ t.handle = s.handle ∧ t.cfg = s.cfg ∧ t.cfgSet = s.cfgSet ∧
    t.caller.pending = s.caller.pending ∧ t.caller.binder = none ∧
    t.wire.oracle = s.wire.oracle ∧ t.wire.opens = s.wire.opens ∧ t.wire.accepts = s.wire.accepts ∧
    (∃ new, t.wire.hist = s.wire.hist ++ new) ∧
    (∃ r, t.caller.results = s.caller.results ++ [⟨s.caller.binder, r⟩])

/-- R20, R22 to R24: what a command sends and answers depends on the transport and on SESS alone: not on CFG, not on any earlier
response, not on any name. -/
def Obligations.CommandsDependOnWireAndSessionOnly : Prop :=
  ∀ (i : Instr) (s₁ s₂ : State), s₁.wire = s₂.wire → s₁.sess = s₂.sess →
    (∃ (w : Wire) (r : Response), exec i s₁ = .next (s₁.answered w r) ∧ exec i s₂ = .next (s₂.answered w r)) ∨
    (∃ q : Refusal, exec i s₁ = .refused q ∧ exec i s₂ = .refused q)

/-- R100, R102, R254: what a command puts on the wire is its encoding. The frames it sends, with their kinds, are an initial
part of the frames its encoding lists, and all of them when its response is Ok; they are never more than two. -/
def Obligations.WireTrafficIsTheEncoding : Prop :=
  ∀ (i : Instr) (s t : State), exec i s = .next t →
    ((s.newEvents t).map Event.sent) <+: encodeFrames i ∧
    (∀ v, t.lastResponse = some (.ok v) → (s.newEvents t).map Event.sent = encodeFrames i) ∧
    (s.newEvents t).length ≤ 2

/-- R98, R211 (the width check of READ_REGISTER is decision D5): exactly the operand values of R98 make a command answer
InvalidArgument, and then it has sent nothing. -/
def Obligations.IllegalOperandsSendNothing : Prop :=
  ∀ (i : Instr) (s t : State), exec i s = .next t →
    ((∃ c, t.lastResponse = some (.invalidArgument c)) ↔ i.hasIllegalOperand = true) ∧
    (i.hasIllegalOperand = true → t.wire = s.wire)

/-- R212, R213, R215 (a derived rule): errors are precise. A command that answers IoError has sent at least one frame, the last one failed
(status below 1) and all before it succeeded; one that answers Ok had no failed exchange; none answers ConfigError. -/
def Obligations.ErrorsArePrecise : Prop :=
  ∀ (i : Instr) (s t : State), exec i s = .next t →
    (t.lastResponse = some .ioError →
      ∃ before e, s.newEvents t = before ++ [e] ∧ e.status.toInt < 1 ∧ ∀ x ∈ before, 1 ≤ x.status.toInt) ∧
    (∀ v, t.lastResponse = some (.ok v) → ∀ x ∈ s.newEvents t, 1 ≤ x.status.toInt) ∧
    t.lastResponse ≠ some .configError

/-- R28, R29: one exchange appends exactly one event, which records the kind, the frame and the reply, and the reply has as many bytes
as the frame, whoever answers. -/
def Obligations.ExchangeRecordsOneEvent : Prop :=
  ∀ (w : Wire) (k : Kind) (tx : Bytes),
    (xfer k tx w).2.hist = w.hist ++ [⟨k, tx, (xfer k tx w).1.status, (xfer k tx w).1.rx⟩] ∧
    (xfer k tx w).1.rx.length = tx.length

/-! ## Encodings -/

/-- R91, R92, R102: the wire frame codec. Every legal frame is read back from its bytes and kind, and whatever is read is a legal frame
whose encoding is those bytes and that kind. -/
def Obligations.FrameCodecAgrees : Prop :=
  (∀ f : Frame, f.wf = true → decodeFrame (encodeFrame f) = some f) ∧
  (∀ (x : TaggedFrame) (f : Frame), decodeFrame x = some f → f.wf = true ∧ encodeFrame f = x)

/-- R96 (a derived rule): a one-byte read frame has exactly the bytes of a write frame of 0, at every address; only the kind differs. -/
def Obligations.BytesDoNotTellReadFromWrite : Prop :=
  ∀ a : Byte,
    (encodeFrame (.read a 1)).2 = (encodeFrame (.write a 0x00#8)).2 ∧
    (encodeFrame (.read a 1)).1 ≠ (encodeFrame (.write a 0x00#8)).1

/-- R94, R95, R97: the frames of every command with legal operands and a frame decode to the command, up to the commands that have
the same frames (R52, R104, R143). Which of those the decoder answers is the model's choice (log 15): SELECT_PAGE before
WRITE_BYTE, READ_REGISTER before READ_FIELD, the logical address below 0x800 before its aliases. -/
def Obligations.FramesDecodeToTheirCommand : Prop :=
  ∀ i : Instr, encodeFrames i ≠ [] → decodeFrames (encodeFrames i) = some i.canonical

/-- R103 (headline; its characters are log 14): every well-formed command, with every operand at every value, is read back from its text. -/
def Obligations.TextOfCommandReadsBack : Prop :=
  ∀ i : Instr, i.wf = true → decode (encode i) = .ok i

/-- R103 (headline; its characters are log 14): every well-formed line, with its name and with a named data operand, is read back from
its text. -/
def Obligations.TextOfLineReadsBack : Prop :=
  ∀ l : Line, l.wf = true → decodeLine (encodeLine l) = .ok l

/-- R94, R95, R103: a few words written out from the spec decode to the commands they stand for. Two clauses rest on choices of the
model's: of the commands with the same frames (R143, R104) the decoder answers SELECT_PAGE for [7F 05] and READ_REGISTER
for the pair (log 15), and the text `select_page 5` is in the characters of log 14. -/
def Obligations.WrittenOutWordsDecode : Prop :=
  -- (W, 01111111 00000101): SELECT_PAGE 5 (R122)
  decodeFrames [(.write, [0b01111111#8, 0b00000101#8])] = some (.selectPage 5#8) ∧
  -- (W, 01111111 00000000), (R, 00000111 + 4 bytes of 0): READ_REGISTER 0x0007, 4 (R178)
  decodeFrames [(.write, [0b01111111#8, 0b00000000#8]), (.read, [0b00000111#8, 0#8, 0#8, 0#8, 0#8])]
    = some (.readRegister 0x0007#16 4#8) ∧
  -- (R, 00000101 + 2 bytes of 0): READ_BYTES 0x05, 2 (R154)
  decodeFrames [(.read, [0b00000101#8, 0#8, 0#8])] = some (.readBytes 0x05#8 2#16) ∧
  -- (W, 11111111 10101010): WRITE_BYTE 0xFF, 0xAA (R143)
  decodeFrames [(.write, [0b11111111#8, 0b10101010#8])] = some (.writeByte 0xFF#8 0xAA#8) ∧
  -- "select_page 5" (R103)
  decode [0x73#8, 0x65#8, 0x6C#8, 0x65#8, 0x63#8, 0x74#8, 0x5F#8, 0x70#8, 0x61#8, 0x67#8, 0x65#8, 0x20#8, 0x35#8]
    = .ok (.selectPage 5#8)

/-! ## The session -/

/-- R36, R240 (SESS and HIST at reset are decisions D11 and D7; DEVICE is a parameter): the state after reset. -/
def Obligations.ResetValues : Prop :=
  State.reset.sess = .closed ∧ State.reset.cfg.device = Config.device ∧
  State.reset.cfg.speedHz = 1000000#32 ∧ State.reset.cfg.mode = 0#2 ∧ State.reset.cfg.bpw = 8#8 ∧
  State.reset.cfg.debug = 0#8 ∧ State.reset.wire.hist = []

/-- R241, R242 (decision D12; in one step of the caller: log 8): from CLOSED, open asks the transport; refused, SESS is FAILED and the
response ConfigError; accepted, the handle is held and configure decides between OPEN with Ok(()) and FAILED with
ConfigError. No event is recorded, CFG stays. -/
def Obligations.OpenThenConfigure : Prop :=
  ∀ (s : State) (rest : List CallerStep), s.sess = .closed → s.caller.pending = .openSession :: rest →
    let opens := s.wire.opens.getD (Config.transportOpens s.wire.oracle s.cfg.device)
    let accepts :=
      s.wire.accepts.getD (Config.transportAccepts s.wire.oracle s.cfg.device s.cfg.mode 8#8 s.cfg.speedHz)
    step s = .next
      { s with
        sess   := if opens && accepts then .opened else .failed
        handle := if opens then true else s.handle
        caller :=
          { pending := rest, binder := none,
            results := s.caller.results ++ [⟨none, if opens && accepts then .ok .unit else .configError⟩] } }

/-- R244 (its last clause is derived; the model's choices, log 9: before open and after release it is refused, and in FAILED without
a handle a release may come again): release gives up the handle and sets
RELEASED, from OPEN and from FAILED after a successful open; where open itself failed SESS stays FAILED. No event. -/
def Obligations.ReleaseGivesUpTheHandle : Prop :=
  ∀ (s : State) (rest : List CallerStep), s.caller.pending = .releaseSession :: rest →
    (s.sess = .opened ∨ (s.sess = .failed ∧ s.handle = true) →
      step s = .next
        { s with sess := .released, handle := false, caller := { s.caller with pending := rest, binder := none } }) ∧
    (s.sess = .failed → s.handle = false →
      step s = .next { s with caller := { s.caller with pending := rest, binder := none } }) ∧
    (s.sess = .closed ∨ s.sess = .released → step s = .refused .bootOrder)

/-- R246 (step 1; refusing it later or twice is log 10) with R27: the caller sets CFG once, before open. -/
def Obligations.SetConfigOnlyOnceBeforeOpen : Prop :=
  ∀ (s : State) (rest : List CallerStep) (device : DeviceId) (speedHz : BitVec 32) (mode : BitVec 2) (debug : Byte),
    s.caller.pending = .setConfig device speedHz mode debug :: rest →
    (s.sess = .closed → s.cfgSet = false →
      step s = .next
        { s with cfg := ⟨device, speedHz, mode, debug⟩, cfgSet := true,
                 caller := { s.caller with pending := rest, binder := none } }) ∧
    (s.sess ≠ .closed ∨ s.cfgSet = true → step s = .refused .bootOrder)

/-- R27: CFG is set once, before the transport is opened, and is immutable from then on. No command writes CFG: a step that changes it
is the caller's one setting of it, in a session that is CLOSED. -/
def Obligations.ConfigurationIsImmutable : Prop :=
  (∀ (i : Instr) (s t : State), exec i s = .next t → t.cfg = s.cfg) ∧
  (∀ s t : State, step s = .next t → t.cfg ≠ s.cfg →
    s.sess = .closed ∧ s.cfgSet = false ∧ t.cfgSet = true ∧ t.sess = .closed) ∧
  (∀ s t : State, step s = .next t → s.cfgSet = true → t.cfgSet = true)

/-- R21, R241 to R244: SESS moves only along CLOSED → OPEN, CLOSED → FAILED, OPEN → RELEASED, FAILED → RELEASED, and only in a session
step; the handle moves with it. That RELEASED is reached only in a release step of the caller's list is the model's choice
(log 29): R244 names no agent. -/
def Obligations.SessionMovesOnlyByBootAndRelease : Prop :=
  ∀ s t : State, step s = .next t →
    (t.sess = s.sess ∧ t.handle = s.handle) ∨
    (∃ rest, s.caller.pending = .openSession :: rest ∧ s.sess = .closed ∧
      ((t.sess = .opened ∧ t.handle = true) ∨ t.sess = .failed)) ∨
    (∃ rest, s.caller.pending = .releaseSession :: rest ∧ (s.sess = .opened ∨ s.sess = .failed ∧ s.handle = true) ∧
      t.sess = .released ∧ t.handle = false)

/-- R243, R244, R245: once SESS is FAILED or RELEASED it never becomes OPEN again and no exchange is made any more. -/
def Obligations.EndedSessionSendsNothing : Prop :=
  ∀ s t : State, (s.sess = .failed ∨ s.sess = .released) → step s = .next t →
    (t.sess = .failed ∨ t.sess = .released) ∧ t.wire = s.wire

/-- R26 (decision D13): the debug level has no effect. Two states that differ in it alone take the same step to the outside. -/
def Obligations.DebugLevelHasNoEffect : Prop :=
  ∀ (s : State) (d : Byte), SameOutside (step s) (step (s.withDebug d))

/-! ## The caller, the step and the invariant -/

/-- R103, R8: a step runs the decoded command. When the caller's next line is what a text decodes to, and its name operand, if any, is
resolved, the step is exec of that command, in the state where the line has left the list and its name awaits the response. -/
def Obligations.StepRunsTheDecodedLine : Prop :=
  ∀ (s : State) (text : Bytes) (l : Line) (i : Instr) (rest : List CallerStep),
    decodeLine text = .ok l → s.caller.pending = .line l :: rest → resolve s.caller.results l.cmd = .ok i →
    step s = exec i { s with caller := { s.caller with pending := rest, binder := l.label } }

/-- Log 15 and log 16: the step after a table word is placed is exec of the command the word decodes to, with the session open where
the command needs it (R245). -/
def Obligations.StepRunsTheTableWord : Prop :=
  ∀ (s : State) (nbits w : Nat) (i : Instr), decodeTableWord nbits w = some i →
    step (s.withFetchWord nbits w) =
      exec i
        { s with
          sess   := if i.gated then .opened else s.sess
          handle := if i.gated then true else s.handle
          caller := { s.caller with binder := none } }

/-- R103: the data operand of decode_be that is a name stands for the bytes of an earlier result of that name, and a line binds its own
name to its response. That a name bound by several lines means the last of them is the model's choice (log 25); R103 says
only 'an earlier result'. -/
def Obligations.NamedDataIsTheLastResultOfTheName : Prop :=
  ∀ (s : State) (width : Byte) (name : Label) (label : Option Label) (data : Bytes) (rest : List CallerStep)
    (before after : List Received),
    s.caller.pending = .line ⟨label, .decodeResult width name⟩ :: rest →
    s.caller.results = before ++ ⟨some name, .ok (.bytes data)⟩ :: after →
    (∀ r ∈ after, r.label ≠ some name) →
    (isFieldWidth width = true → data.length = width.toNat) →
    ∃ (t : State) (r : Response), step s = .next t ∧ t.caller.results = s.caller.results ++ [⟨label, r⟩] ∧
      decodeBe width data = some r ∧ t.wire = s.wire

/-- R28, R254: HIST is append-only: a step keeps every event there was, in order, and adds at most two. -/
def Obligations.HistoryIsAppendOnly : Prop :=
  ∀ s t : State, step s = .next t → ∃ new : List Event, t.wire.hist = s.wire.hist ++ new ∧ new.length ≤ 2

/-- Headline: every step keeps the invariant. HIST holds only write frames and read frames, each with a reply of its length (R91, R92,
R100, R29); SESS and the handle agree (R21, R241 to R244); the held device registers keep their canonical form (log 6). -/
def Obligations.EveryStepKeepsTheInvariant : Prop :=
  ∀ s t : State, s.Inv → step s = .next t → t.Inv

/-- The invariant holds after reset: HIST is empty (R28, R36), SESS is CLOSED (R36, R240), and no reference device is attached. That no
handle is held at reset is DEDUCED from R21 ('no handle yet'), the model's reading (log 7); R36 and R240 name no handle. -/
def Obligations.InvariantAtReset : Prop := State.reset.Inv

/-! ## The device reference model and the echo stub -/

/-- R59, R55 (decision D9: for tests, no claim about a device): in an open session under the reference model, SELECT_PAGE of a legal page
and every WRITE_BYTE succeed; those to 0x7F set DEV.PAGE to the low four bits of the value sent, and a write elsewhere
changes nothing. A READ_BYTES of a legal length succeeds with that many bytes and changes nothing. READ_REGISTER and
READ_FIELD of a legal width succeed and leave DEV.PAGE at la[10:7]. For every command, whatever the response: DEV.PAGE is
that of the page-select frame in its encoding, if it has one, else it stays; and nothing else of the device changes. -/
def Obligations.ReferenceDevicePage : Prop :=
  ∀ (d : RefDevice) (s : State), s.sess = .opened → s.wire.device = .reference d →
    (∀ page : Byte, page ≤ 0x0F#8 → ∃ t : State, exec (.selectPage page) s = .next t ∧
      t.lastResponse = some (.ok .unit) ∧ t.wire.device = .reference { d with page := page.extractLsb' 0 4 }) ∧
    (∀ addr value : Byte, ∃ t : State, exec (.writeByte addr value) s = .next t ∧
      t.lastResponse = some (.ok .unit) ∧
      t.wire.device = .reference (if addr = 0x7F#8 then { d with page := value.extractLsb' 0 4 } else d)) ∧
    (∀ (addr : Byte) (len : BitVec 16), 1#16 ≤ len → len ≤ 255#16 →
      ∃ (t : State) (data : Bytes), exec (.readBytes addr len) s = .next t ∧
        t.lastResponse = some (.ok (.bytes data)) ∧ data.length = len.toNat ∧ t.wire.device = .reference d) ∧
    (∀ (la : BitVec 16) (width : Byte), (width = 1#8 ∨ width = 2#8 ∨ width = 4#8) →
      ∃ (t u : State) (data : Bytes) (v : BitVec 32),
        exec (.readRegister la width) s = .next t ∧ t.lastResponse = some (.ok (.bytes data)) ∧
        data.length = width.toNat ∧ t.wire.device = .reference { d with page := la.extractLsb' 7 4 } ∧
        exec (.readField la width) s = .next u ∧ u.lastResponse = some (.ok (.word v)) ∧
        u.wire.device = .reference { d with page := la.extractLsb' 7 4 }) ∧
    (∀ (i : Instr) (t : State), exec i s = .next t →
      (∀ v : Byte, (Kind.write, [0x7F#8, v]) ∈ encodeFrames i →
        t.wire.device = .reference { d with page := v.extractLsb' 0 4 }) ∧
      ((∀ v : Byte, (Kind.write, [0x7F#8, v]) ∉ encodeFrames i) → t.wire.device = .reference d))

/-- R59, R51 (decision D9: for tests): under the reference model a READ_REGISTER of a legal width whose bytes stay below wire address
0x7F returns the register bytes at the logical address, lowest first, and leaves the device on the page read. -/
def Obligations.ReferenceDeviceReadsRegisters : Prop :=
  ∀ (d : RefDevice) (s : State) (la : BitVec 16) (width : Byte), s.sess = .opened → s.wire.device = .reference d →
    (width = 1#8 ∨ width = 2#8 ∨ width = 4#8) → (offsetOf la).toNat + width.toNat ≤ 0x7F →
    ∃ t : State, exec (.readRegister la width) s = .next t ∧
      t.lastResponse = some (.ok (.bytes (memRead s.wire.oracle d.regs (la.toNat % 0x800) width.toNat))) ∧
      t.devPage = pageOf la

/-- R59: the memory frame of every command under the reference model. No command stores to DEV.REG: every byte of it reads after the
command as it did before. -/
def Obligations.NoCommandWritesDeviceRegisters : Prop :=
  ∀ (d : RefDevice) (i : Instr) (s t : State), s.wire.device = .reference d → exec i s = .next t →
    ∀ a : Nat, t.devReg a = s.devReg a

/-- R60 (decision D9: for tests): under the echo stub every read with legal operands succeeds with zeros. READ_BYTES of a legal length
gives that many bytes of 0x00, READ_REGISTER of a legal width likewise, and READ_FIELD gives the value 0; and every event
has the frame's length as status and the frame as receive bytes. -/
def Obligations.EchoStubReadsZeros : Prop :=
  ∀ s : State, s.sess = .opened → s.wire.device = .echo →
    (∀ (addr : Byte) (len : BitVec 16), 1#16 ≤ len → len ≤ 255#16 →
      ∃ t : State, exec (.readBytes addr len) s = .next t ∧
        t.lastResponse = some (.ok (.bytes (List.replicate len.toNat 0x00#8))) ∧
        t.wire.hist = s.wire.hist ++
          [⟨.read, readFrame addr len.toNat, BitVec.ofNat 32 (len.toNat + 1), readFrame addr len.toNat⟩]) ∧
    (∀ (la : BitVec 16) (width : Byte), (width = 1#8 ∨ width = 2#8 ∨ width = 4#8) →
      let sel : Bytes := [0x7F#8, (la.extractLsb' 7 4).setWidth 8]
      let rd : Bytes := (la.extractLsb' 0 7).setWidth 8 :: List.replicate width.toNat 0x00#8
      ∃ t u : State, exec (.readRegister la width) s = .next t ∧
        t.lastResponse = some (.ok (.bytes (List.replicate width.toNat 0x00#8))) ∧
        exec (.readField la width) s = .next u ∧ u.lastResponse = some (.ok (.word 0#32)) ∧
        t.wire.hist = s.wire.hist ++
          [⟨.write, sel, 2#32, sel⟩, ⟨.read, rd, BitVec.ofNat 32 (width.toNat + 1), rd⟩] ∧
        u.wire.hist = t.wire.hist)

/-- R12 (MemRead and MemWrite of the reference model): bytes written at addresses of DEV.REG are read back from there, and every other
address reads as before. -/
def Obligations.DeviceMemoryReadAfterWrite : Prop :=
  ∀ (oracle : Nat) (m : Memory) (la : Nat) (vs : Bytes), la + vs.length ≤ 0x800 →
    memRead oracle (memWrite m la vs) la vs.length = vs ∧
    ∀ a : Nat, a < la ∨ la + vs.length ≤ a → Memory.byte oracle (memWrite m la vs) a = Memory.byte oracle m a

/-! ## Codes -/

/-- R21, R210, R211 (decisions D6 and D11: labels): the codes of the session states, of the response kinds and of the causes; only
InvalidArgument carries a cause and only ConfigError is fatal. -/
def Obligations.CodesAreAsTabled : Prop :=
  [Session.closed, .opened, .failed, .released].map Session.code = [0#2, 1#2, 2#2, 3#2] ∧
  [Cause.pageRange, .lengthRange, .width].map Cause.code = [1, 2, 3] ∧
  (∀ v c, [Response.ok v, .invalidArgument c, .ioError, .configError].map Response.code = [0, 1, 2, 3]) ∧
  (∀ r : Response, (r.cause.isSome = true ↔ r.code = 1) ∧ (r.fatal = true ↔ r.code = 3))
end

