-- ==== Sys2Proof/Laws/Decode.lean ====
section
/-! SUPPORT. Laws of the encodings: the fields of a logical address, the frame shapes, the legal widths, hexadecimal digits. -/
namespace Sys2Proof

/-- The page index is la[10:7] (R50). -/
theorem pageOf_eq_extract (la : BitVec 16) : pageOf la = la.extractLsb' 7 4 := by
  apply BitVec.eq_of_toNat_eq
  simp only [pageOf, BitVec.toNat_setWidth, BitVec.toNat_and, BitVec.toNat_ushiftRight, BitVec.toNat_ofNat,
    BitVec.extractLsb'_toNat]
  rw [show 15 % 2 ^ 16 = 2 ^ 4 - 1 from rfl, Nat.and_two_pow_sub_one_eq_mod]
  omega

/-- The in-page offset is la[6:0] (R50). -/
theorem offsetOf_eq_extract (la : BitVec 16) : offsetOf la = la.extractLsb' 0 7 := by
  apply BitVec.eq_of_toNat_eq
  simp only [offsetOf, BitVec.toNat_setWidth, BitVec.toNat_and, BitVec.toNat_ofNat, BitVec.extractLsb'_toNat]
  rw [show 127 % 2 ^ 16 = 2 ^ 7 - 1 from rfl, Nat.and_two_pow_sub_one_eq_mod]
  simp

theorem pageOf_toNat (la : BitVec 16) : (pageOf la).toNat = la.toNat / 128 % 16 := by
  rw [pageOf_eq_extract, BitVec.extractLsb'_toNat, Nat.shiftRight_eq_div_pow]

theorem offsetOf_toNat (la : BitVec 16) : (offsetOf la).toNat = la.toNat % 128 := by
  rw [offsetOf_eq_extract, BitVec.extractLsb'_toNat, Nat.shiftRight_eq_div_pow]
  simp

theorem isFieldWidth_iff (w : Byte) : isFieldWidth w = true ↔ w = 1#8 ∨ w = 2#8 ∨ w = 4#8 := by
  simp [isFieldWidth, or_assoc]

/-- The width check of WellFormed is the decoder's. -/
theorem fieldWidths_contains (w : Byte) : Config.fieldWidths.contains w = isFieldWidth w := by
  rw [Bool.eq_iff_iff, isFieldWidth_iff]
  simp [Config.fieldWidths]

@[simp] theorem writeFrame_length (a v : Byte) : (writeFrame a v).length = 2 := rfl

@[simp] theorem readFrame_length (a : Byte) (len : Nat) : (readFrame a len).length = len + 1 := by simp [readFrame]

/-- The row that a width of DECODE_BE selects is well formed exactly when the data has a legal width's length (R101). -/
theorem decodeBe_wf (w : Byte) (d : Bytes) :
    (Instr.decodeBe w d).wf = true ↔ (isFieldWidth w = true → d.length = w.toNat) := by
  unfold Instr.decodeBe
  split
  · subst w; simp [Instr.wf, isFieldWidth]
  · split
    · subst w; simp [Instr.wf, isFieldWidth]
    · split
      · subst w; simp [Instr.wf, isFieldWidth]
      · simp [Instr.wf, isFieldWidth, *]

/-- A hexadecimal digit reads back as its value (R103, log 14). -/
theorem hexDigitValue_hexDigit (v : BitVec 4) : hexDigitValue (hexDigit v) = some v.toNat := by
  revert v; decide

theorem hexDigit_isWordChar (v : BitVec 4) : isWordChar (hexDigit v) = true := by revert v; decide

end Sys2Proof
end

