-- ==== Sys2Proof/Laws/Memory.lean ====
section
/-! SUPPORT. Laws of the device register memory: every operation keeps the canonical form; a read after a write. -/
namespace Sys2Proof.Machine

theorem Memory.risingFrom_mono {m : Memory} : ∀ {a b : Nat}, a ≤ b → Memory.risingFrom b m = true →
    Memory.risingFrom a m = true := by
  cases m with
  | nil => intros; rfl
  | cons c m =>
    intro a b hab h
    simp only [Memory.risingFrom, Bool.and_eq_true, decide_eq_true_eq] at *
    exact ⟨⟨by omega, h.1.2⟩, h.2⟩

theorem Memory.insert_risingFrom (m : Memory) : ∀ (low x : Nat) (v : Byte), low ≤ x → x < Config.laReach →
    Memory.risingFrom low m = true → Memory.risingFrom low (Memory.insert m x v) = true := by
  induction m with
  | nil => intro low x v h1 h2 _; simp [Memory.insert, Memory.risingFrom, h1, h2]
  | cons c m ih =>
    obtain ⟨a, b⟩ := c
    intro low x v h1 h2 h
    simp only [Memory.risingFrom, Bool.and_eq_true, decide_eq_true_eq] at h
    obtain ⟨⟨hla, har⟩, hm⟩ := h
    unfold Memory.insert
    split
    · simp only [Memory.risingFrom, Bool.and_eq_true, decide_eq_true_eq]
      exact ⟨⟨h1, h2⟩, ⟨by omega, har⟩, hm⟩
    · split
      · subst x
        simp only [Memory.risingFrom, Bool.and_eq_true, decide_eq_true_eq]
        exact ⟨⟨h1, h2⟩, hm⟩
      · simp only [Memory.risingFrom, Bool.and_eq_true, decide_eq_true_eq]
        exact ⟨⟨hla, har⟩, ih (a + 1) x v (by omega) h2 hm⟩

/-- Setting a byte keeps the canonical form. -/
theorem Memory.set_wf (m : Memory) (x : Nat) (v : Byte) (h : Memory.wf m = true) : Memory.wf (Memory.set m x v) = true := by
  unfold Memory.set
  split
  · exact Memory.insert_risingFrom m 0 x v (by omega) (by assumption) h
  · exact h

/-- MemWrite keeps the canonical form. -/
theorem memWrite_wf (vs : Bytes) : ∀ (m : Memory) (la : Nat), Memory.wf m = true → Memory.wf (memWrite m la vs) = true := by
  induction vs with
  | nil => intro m la h; exact h
  | cons v vs ih => intro m la h; exact ih _ _ (Memory.set_wf m la v h)

theorem Memory.get_below (m : Memory) : ∀ low x : Nat, Memory.risingFrom low m = true → x < low →
    Memory.get m x = none := by
  induction m with
  | nil => intros; rfl
  | cons c m ih =>
    obtain ⟨a, b⟩ := c
    intro low x h hx
    simp only [Memory.risingFrom, Bool.and_eq_true, decide_eq_true_eq] at h
    rw [Memory.get, if_neg (by omega)]
    exact ih (a + 1) x h.2 (by omega)

theorem Memory.get_insert (m : Memory) (x y : Nat) (v : Byte) :
    Memory.get (Memory.insert m x v) y = if x = y then some v else Memory.get m y := by
  induction m with
  | nil => simp [Memory.insert, Memory.get]
  | cons c m ih =>
    obtain ⟨a, b⟩ := c
    unfold Memory.insert
    split
    · simp [Memory.get]
    · split
      · subst x
        by_cases h : a = y <;> simp [Memory.get, h]
      · by_cases h : a = y
        · subst a
          simp [Memory.get, *]
        · simp [Memory.get, h, ih]

/-- A read of one byte after a write of one byte, at an address of DEV.REG. -/
theorem Memory.get_set (m : Memory) (x y : Nat) (v : Byte) (hx : x < Config.laReach) :
    Memory.get (Memory.set m x v) y = if x = y then some v else Memory.get m y := by
  rw [Memory.set, if_pos hx, Memory.get_insert]

@[simp] theorem memRead_length (o : Nat) (m : Memory) (la n : Nat) : (memRead o m la n).length = n := by
  simp [memRead]

/-- The reset state holds no register byte, in the canonical form. -/
theorem State.reset_regs_wf : Memory.wf State.reset.regs = true := rfl

end Sys2Proof.Machine
end

