-- ==== Sys2Proof/Laws/State.lean ====
section
/-! SUPPORT. Laws of the state: one lemma per field per update, each true by rfl. -/
namespace Sys2Proof.Machine

section finish
variable (s : State) (x : Response × Wire)
@[simp] theorem State.finish_sess : (s.finish x).sess = s.sess := rfl
@[simp] theorem State.finish_handle : (s.finish x).handle = s.handle := rfl
@[simp] theorem State.finish_cfg : (s.finish x).cfg = s.cfg := rfl
@[simp] theorem State.finish_cfgSet : (s.finish x).cfgSet = s.cfgSet := rfl
@[simp] theorem State.finish_wire : (s.finish x).wire = x.2 := rfl
@[simp] theorem State.finish_pending : (s.finish x).caller.pending = s.caller.pending := rfl
@[simp] theorem State.finish_binder : (s.finish x).caller.binder = none := rfl
@[simp] theorem State.finish_results :
    (s.finish x).caller.results = s.caller.results ++ [⟨s.caller.binder, x.1⟩] := rfl
theorem State.finish_eq_answered : s.finish x = s.answered x.2 x.1 := rfl
end finish

section answered
variable (s : State) (w : Wire) (r : Response)
@[simp] theorem State.answered_sess : (s.answered w r).sess = s.sess := rfl
@[simp] theorem State.answered_handle : (s.answered w r).handle = s.handle := rfl
@[simp] theorem State.answered_cfg : (s.answered w r).cfg = s.cfg := rfl
@[simp] theorem State.answered_cfgSet : (s.answered w r).cfgSet = s.cfgSet := rfl
@[simp] theorem State.answered_wire : (s.answered w r).wire = w := rfl
@[simp] theorem State.answered_pending : (s.answered w r).caller.pending = s.caller.pending := rfl
@[simp] theorem State.answered_binder : (s.answered w r).caller.binder = none := rfl
@[simp] theorem State.answered_results :
    (s.answered w r).caller.results = s.caller.results ++ [⟨s.caller.binder, r⟩] := rfl
@[simp] theorem State.answered_lastResponse : (s.answered w r).lastResponse = some r := by
  simp [State.lastResponse]
end answered

section issue
variable (s : State) (b : Option Label) (rest : List CallerStep)
@[simp] theorem State.issue_sess : (s.issue b rest).sess = s.sess := rfl
@[simp] theorem State.issue_handle : (s.issue b rest).handle = s.handle := rfl
@[simp] theorem State.issue_cfg : (s.issue b rest).cfg = s.cfg := rfl
@[simp] theorem State.issue_cfgSet : (s.issue b rest).cfgSet = s.cfgSet := rfl
@[simp] theorem State.issue_wire : (s.issue b rest).wire = s.wire := rfl
@[simp] theorem State.issue_pending : (s.issue b rest).caller.pending = rest := rfl
@[simp] theorem State.issue_binder : (s.issue b rest).caller.binder = b := rfl
@[simp] theorem State.issue_results : (s.issue b rest).caller.results = s.caller.results := rfl
end issue

section receive
variable (c : Caller) (r : Response)
@[simp] theorem Caller.receive_pending : (c.receive r).pending = c.pending := rfl
@[simp] theorem Caller.receive_binder : (c.receive r).binder = none := rfl
@[simp] theorem Caller.receive_results : (c.receive r).results = c.results ++ [⟨c.binder, r⟩] := rfl
end receive

section withdraw
variable (s : State)
@[simp] theorem State.withdraw_sess : s.withdraw.sess = s.sess := rfl
@[simp] theorem State.withdraw_handle : s.withdraw.handle = s.handle := rfl
@[simp] theorem State.withdraw_cfg : s.withdraw.cfg = s.cfg := rfl
@[simp] theorem State.withdraw_cfgSet : s.withdraw.cfgSet = s.cfgSet := rfl
@[simp] theorem State.withdraw_wire : s.withdraw.wire = s.wire := rfl
@[simp] theorem State.withdraw_pending : s.withdraw.caller.pending = s.caller.pending.drop 1 := rfl
@[simp] theorem State.withdraw_results : s.withdraw.caller.results = s.caller.results := rfl
end withdraw

section load
variable (s : State) (steps : List CallerStep)
@[simp] theorem State.load_sess : (s.load steps).sess = s.sess := rfl
@[simp] theorem State.load_wire : (s.load steps).wire = s.wire := rfl
@[simp] theorem State.load_cfg : (s.load steps).cfg = s.cfg := rfl
@[simp] theorem State.load_pending : (s.load steps).caller.pending = steps := rfl
@[simp] theorem State.load_results : (s.load steps).caller.results = s.caller.results := rfl
end load

section withNext
variable (s : State) (i : Instr)
@[simp] theorem State.withNext_wire : (s.withNext i).wire = s.wire := rfl
@[simp] theorem State.withNext_cfg : (s.withNext i).cfg = s.cfg := rfl
@[simp] theorem State.withNext_cfgSet : (s.withNext i).cfgSet = s.cfgSet := rfl
@[simp] theorem State.withNext_pending :
    (s.withNext i).caller.pending = .line ⟨none, .instr i⟩ :: s.caller.pending := rfl
@[simp] theorem State.withNext_results : (s.withNext i).caller.results = s.caller.results := rfl
theorem State.withNext_opened (h : i.gated = true) : (s.withNext i).sess = .opened := by simp [State.withNext, h]
end withNext

section withDebug
variable (s : State) (d : Byte)
@[simp] theorem State.withDebug_sess : (s.withDebug d).sess = s.sess := rfl
@[simp] theorem State.withDebug_handle : (s.withDebug d).handle = s.handle := rfl
@[simp] theorem State.withDebug_cfgSet : (s.withDebug d).cfgSet = s.cfgSet := rfl
@[simp] theorem State.withDebug_wire : (s.withDebug d).wire = s.wire := rfl
@[simp] theorem State.withDebug_caller : (s.withDebug d).caller = s.caller := rfl
@[simp] theorem State.withDebug_device : (s.withDebug d).cfg.device = s.cfg.device := rfl
@[simp] theorem State.withDebug_speedHz : (s.withDebug d).cfg.speedHz = s.cfg.speedHz := rfl
@[simp] theorem State.withDebug_mode : (s.withDebug d).cfg.mode = s.cfg.mode := rfl
@[simp] theorem State.withDebug_debug : (s.withDebug d).cfg.debug = d := rfl
end withDebug

/-- What configure can do: nothing but SESS and the caller's results changes (R242). -/
theorem State.configure_cases (s : State) :
    (s.wire.acceptsSettings s.cfg = true ∧
      s.configure = { s with sess := .opened, caller := s.caller.receive (.ok .unit) }) ∨
    (s.wire.acceptsSettings s.cfg = false ∧
      s.configure = { s with sess := .failed, caller := s.caller.receive .configError }) := by
  cases h : s.wire.acceptsSettings s.cfg
  · right; simp [State.configure, h]
  · left; simp [State.configure, h]

end Sys2Proof.Machine
end

