-- ==== Sys2Proof/Laws/Wire.lean ====
section
/-! SUPPORT. Laws of the exchange primitive: what one exchange does, said once. -/
namespace Sys2Proof.Machine

section exchange
variable (w : Wire) (k : Kind) (tx : Bytes)
@[simp] theorem Wire.exchange_hist : (w.exchange k tx).hist = w.hist ++ [w.event k tx] := rfl
@[simp] theorem Wire.exchange_oracle : (w.exchange k tx).oracle = w.oracle := rfl
@[simp] theorem Wire.exchange_opens : (w.exchange k tx).opens = w.opens := rfl
@[simp] theorem Wire.exchange_accepts : (w.exchange k tx).accepts = w.accepts := rfl
@[simp] theorem Wire.event_kind : (w.event k tx).kind = k := rfl
@[simp] theorem Wire.event_tx : (w.event k tx).tx = tx := rfl
@[simp] theorem Wire.event_status : (w.event k tx).status = (w.reply k tx).status := rfl
@[simp] theorem Wire.event_rx : (w.event k tx).rx = (w.reply k tx).rx := rfl
@[simp] theorem Wire.event_sent : (w.event k tx).sent = (k, tx) := rfl
@[simp] theorem xfer_reply : (xfer k tx w).1 = w.reply k tx := rfl
@[simp] theorem xfer_wire : (xfer k tx w).2 = w.exchange k tx := rfl
end exchange

@[simp] theorem PartialReply.complete_rx_length (p : PartialReply) (o : Nat) (h : List Event) (k : Kind) (tx : Bytes) :
    (p.complete o h k tx).rx.length = tx.length := by
  simp [PartialReply.complete]

/-- Whoever answers, rx has the length of tx (R29). -/
@[simp] theorem Wire.reply_rx_length (w : Wire) (k : Kind) (tx : Bytes) : (w.reply k tx).rx.length = tx.length := by
  unfold Wire.reply Answerer.answer
  split <;> simp

/-- The registers the reference device holds are not written by any exchange (R59). -/
theorem RefDevice.answer_regs (d : RefDevice) (o : Nat) (k : Kind) (tx : Bytes) : (d.answer o k tx).2.regs = d.regs := by
  unfold RefDevice.answer
  split
  · dsimp only
    split <;> rfl
  · rfl
  · rfl

/-- An exchange leaves the held registers as they are (R59). -/
@[simp] theorem Wire.exchange_regs (w : Wire) (k : Kind) (tx : Bytes) : (w.exchange k tx).regs = w.regs := by
  cases w with
  | mk hist oracle opens accepts device =>
    cases device with
    | oracle g => cases g <;> rfl
    | echo => rfl
    | reference d => simp [Wire.exchange, Wire.regs, Answerer.answer, RefDevice.answer_regs]

/-- The reference model's answer to a write frame (R59): status 2, and DEV.PAGE set where the address is 0x7F. -/
theorem Wire.write_reference (w : Wire) (d : RefDevice) (h : w.device = .reference d) (a v : Byte) :
    (w.reply .write (writeFrame a v)).status = 2#32 ∧
    (w.exchange .write (writeFrame a v)).device =
      .reference (if a = 0x7F#8 then { d with page := v.extractLsb' 0 4 } else d) := by
  simp only [Wire.reply, Wire.exchange, Answerer.answer, h]
  exact ⟨rfl, rfl⟩

/-- The reference model's answer to a read frame (R59): the frame's length as status, and no change of the device. -/
theorem Wire.read_reference (w : Wire) (d : RefDevice) (h : w.device = .reference d) (a : Byte) (len : Nat) :
    (w.reply .read (readFrame a len)).status = BitVec.ofNat 32 (len + 1) ∧
    (w.exchange .read (readFrame a len)).device = .reference d := by
  simp [Wire.reply, Wire.exchange, Answerer.answer, h, readFrame, RefDevice.answer, PartialReply.complete]

/-- The echo stub's answer (R60): the frame's length as status and the frame as receive bytes; it stays the stub. -/
theorem Wire.exchange_echo (w : Wire) (h : w.device = .echo) (k : Kind) (tx : Bytes) :
    w.reply k tx = ⟨BitVec.ofNat 32 tx.length, tx⟩ ∧ (w.exchange k tx).device = .echo := by
  simp [Wire.reply, Wire.exchange, Answerer.answer, h]

end Sys2Proof.Machine
end

