-- ==== Sys2Proof/Laws/Commands.lean ====
section
/-! SUPPORT. Laws of the shared operations: one lemma for each says everything it can do; provers cite these instead of
unfolding. -/
namespace Sys2Proof.Machine

/-- The gate answers a next state exactly when the session is open, and then it is the body's (R245). -/
theorem gated_eq_next (body : Wire → Response × Wire) (s t : State) :
    gated body s = .next t ↔ s.sess = .opened ∧ t = s.answered (body s.wire).2 (body s.wire).1 := by
  unfold gated
  cases h : s.sess <;> simp [State.finish_eq_answered, eq_comm]

theorem gated_opened (body : Wire → Response × Wire) (s : State) (h : s.sess = .opened) :
    gated body s = .next (s.answered (body s.wire).2 (body s.wire).1) := (gated_eq_next body s _).2 ⟨h, rfl⟩

theorem gated_not_opened (body : Wire → Response × Wire) (s : State) (h : s.sess ≠ .opened) :
    gated body s = .refused .sessionNotOpen := by
  unfold gated
  cases hs : s.sess <;> simp_all

/-- A command that touches no transport leaves it as it is (R245). -/
theorem ungated_eq_next (r : Option Response) (s t : State) :
    ungated r s = .next t ↔ ∃ x, r = some x ∧ t = s.answered s.wire x := by
  cases r <;> simp [ungated, State.finish_eq_answered, eq_comm]

theorem ungated_some (r : Response) (s : State) : ungated (some r) s = .next (s.answered s.wire r) := rfl

/-- The response of an exchange that returns r unless it fails (R141, R151). -/
def unlessFailed (status : Status) (r : Response) : Response := if exchangeFailed status then .ioError else r

theorem writeFrameBody_eq (a v : Byte) (w : Wire) :
    writeFrameBody a v w =
      (unlessFailed (w.reply .write (writeFrame a v)).status (.ok .unit), w.exchange .write (writeFrame a v)) := by
  cases h : exchangeFailed (w.reply .write (writeFrame a v)).status <;>
    simp [writeFrameBody, unlessFailed, raise, succeed, h]

theorem selectPageBody_illegal (page : Byte) (w : Wire) (h : pageTooLarge page = true) :
    selectPageBody page w = (.invalidArgument .pageRange, w) := by simp [selectPageBody, h, raise]

theorem selectPageBody_legal (page : Byte) (w : Wire) (h : pageTooLarge page = false) :
    selectPageBody page w =
      (unlessFailed (w.reply .write (pageSelectFrame page)).status (.ok .unit),
        w.exchange .write (pageSelectFrame page)) := by
  simp [selectPageBody, h, writeFrameBody_eq, pageSelectFrame]

theorem readBytesBody_illegal (addr : Byte) (len : BitVec 16) (w : Wire) (h : lengthOutOfRange len = true) :
    readBytesBody addr len w = (.invalidArgument .lengthRange, w) := by simp [readBytesBody, h, raise]

theorem readBytesBody_legal (addr : Byte) (len : BitVec 16) (w : Wire) (h : lengthOutOfRange len = false) :
    readBytesBody addr len w =
      (unlessFailed (w.reply .read (readFrame addr len.toNat)).status
          (.ok (.bytes (payload len.toNat (w.reply .read (readFrame addr len.toNat)).rx))),
        w.exchange .read (readFrame addr len.toNat)) := by
  cases hf : exchangeFailed (w.reply .read (readFrame addr len.toNat)).status <;>
    simp [readBytesBody, h, unlessFailed, raise, succeed, hf]

/-- PAGE_RANGE cannot fire inside READ_REGISTER (R175). -/
theorem pageOperand_legal (p : BitVec 4) : pageTooLarge (pageOperand p) = false := by revert p; decide

/-- LENGTH_RANGE cannot fire inside READ_REGISTER (R175). -/
theorem lengthOperand_legal (w : Byte) (h : isFieldWidth w = true) : lengthOutOfRange (lengthOperand w) = false := by
  rcases (isFieldWidth_iff w).1 h with rfl | rfl | rfl <;> decide

theorem lengthOperand_toNat (w : Byte) : (lengthOperand w).toNat = w.toNat := by
  simp only [lengthOperand, BitVec.toNat_setWidth]
  omega

theorem pageSelectValue_pageOperand (p : BitVec 4) : pageSelectValue (pageOperand p) = pageOperand p := by
  revert p; decide

theorem readRegisterBody_illegal (la : BitVec 16) (width : Byte) (w : Wire) (h : isFieldWidth width = false) :
    readRegisterBody la width w = (.invalidArgument .width, w) := by
  simp [readRegisterBody, widthUnsupported, h, raise]

/-- READ_REGISTER whose select fails (R176). -/
theorem readRegisterBody_select_failed (la : BitVec 16) (width : Byte) (w : Wire) (h : isFieldWidth width = true)
    (hf : exchangeFailed (w.reply .write (pageSelectFrame (pageOperand (pageOf la)))).status = true) :
    readRegisterBody la width w = (.ioError, w.exchange .write (pageSelectFrame (pageOperand (pageOf la)))) := by
  simp [readRegisterBody, widthUnsupported, h, selectPageBody_legal _ _ (pageOperand_legal _), unlessFailed, hf, raise]

/-- READ_REGISTER whose select succeeds is the read on the transport after it (R175). -/
theorem readRegisterBody_selected (la : BitVec 16) (width : Byte) (w : Wire) (h : isFieldWidth width = true)
    (hf : exchangeFailed (w.reply .write (pageSelectFrame (pageOperand (pageOf la)))).status = false) :
    readRegisterBody la width w =
      readBytesBody (offsetOperand (offsetOf la)) (lengthOperand width)
        (w.exchange .write (pageSelectFrame (pageOperand (pageOf la)))) := by
  simp [readRegisterBody, widthUnsupported, h, selectPageBody_legal _ _ (pageOperand_legal _), unlessFailed, hf]

/-- READ_REGISTER is one of three: a width rejected with nothing sent, a failed select with nothing read, or both exchanges. -/
theorem readRegisterBody_cases (la : BitVec 16) (width : Byte) (w : Wire) :
    let sel := pageSelectFrame (pageOperand (pageOf la))
    let rd := readFrame (offsetOperand (offsetOf la)) width.toNat
    let w₁ := w.exchange .write sel
    (isFieldWidth width = false ∧ readRegisterBody la width w = (.invalidArgument .width, w)) ∨
    (isFieldWidth width = true ∧ exchangeFailed (w.reply .write sel).status = true ∧
      readRegisterBody la width w = (.ioError, w₁)) ∨
    (isFieldWidth width = true ∧ exchangeFailed (w.reply .write sel).status = false ∧
      readRegisterBody la width w =
        (unlessFailed (w₁.reply .read rd).status (.ok (.bytes (payload width.toNat (w₁.reply .read rd).rx))),
          w₁.exchange .read rd)) := by
  intro sel rd w₁
  cases h : isFieldWidth width
  · exact .inl ⟨rfl, readRegisterBody_illegal la width w h⟩
  · cases hf : exchangeFailed (w.reply .write sel).status
    · refine .inr (.inr ⟨rfl, rfl, ?_⟩)
      rw [readRegisterBody_selected la width w h hf, readBytesBody_legal _ _ _ (lengthOperand_legal width h),
        lengthOperand_toNat]
    · exact .inr (.inl ⟨rfl, rfl, readRegisterBody_select_failed la width w h hf⟩)

/-- An error of READ_REGISTER is READ_FIELD's result as it is (R104). -/
theorem decodeResponse_error (width : Byte) (r : Response) (h : ∀ v, r ≠ .ok v) : decodeResponse width r = r := by
  cases r with
  | ok v => exact absurd rfl (h v)
  | invalidArgument c => rfl
  | ioError => rfl
  | configError => rfl

/-- DEC1 as a number (R191). -/
theorem dec1_toNat (a : Byte) : (dec1 a).toNat = a.toNat := by
  simp only [dec1, BitVec.toNat_setWidth]
  omega

/-- DEC2 as a number: the two bytes lie in lanes of their own, so the or is a sum (R192, R194). -/
theorem dec2_toNat (a b : Byte) : (dec2 a b).toNat = a.toNat * 256 + b.toNat := by
  have ha := a.isLt
  have hb := b.isLt
  simp only [dec2, BitVec.toNat_setWidth, BitVec.toNat_or, BitVec.toNat_shiftLeft]
  have lane : (a.toNat % 2 ^ 16) <<< 8 % 2 ^ 16 = a.toNat <<< 8 := by rw [Nat.shiftLeft_eq]; omega
  rw [lane, Nat.mod_eq_of_lt (show b.toNat < 2 ^ 16 by omega), ← Nat.shiftLeft_add_eq_or_of_lt (by omega),
    Nat.shiftLeft_eq]
  omega

/-- DEC4 as a number (R193, R194). -/
theorem dec4_toNat (a b c d : Byte) :
    (dec4 a b c d).toNat = a.toNat * 256 ^ 3 + b.toNat * 256 ^ 2 + c.toNat * 256 + d.toNat := by
  have ha := a.isLt
  have hb := b.isLt
  have hc := c.isLt
  have hd := d.isLt
  simp only [dec4, BitVec.toNat_setWidth, BitVec.toNat_or, BitVec.toNat_shiftLeft]
  have lane3 : (a.toNat % 2 ^ 32) <<< 24 % 2 ^ 32 = a.toNat <<< 24 := by rw [Nat.shiftLeft_eq]; omega
  have lane2 : (b.toNat % 2 ^ 32) <<< 16 % 2 ^ 32 = b.toNat <<< 16 := by rw [Nat.shiftLeft_eq]; omega
  have lane1 : (c.toNat % 2 ^ 32) <<< 8 % 2 ^ 32 = c.toNat <<< 8 := by rw [Nat.shiftLeft_eq]; omega
  rw [lane3, lane2, lane1, Nat.mod_eq_of_lt (show d.toNat < 2 ^ 32 by omega)]
  have high : a.toNat <<< 24 ||| b.toNat <<< 16 = (a.toNat * 256 + b.toNat) <<< 16 := by
    rw [← Nat.shiftLeft_add_eq_or_of_lt (by rw [Nat.shiftLeft_eq]; omega)]
    simp only [Nat.shiftLeft_eq]
    omega
  have upper : (a.toNat * 256 + b.toNat) <<< 16 ||| c.toNat <<< 8 =
      (a.toNat * 65536 + b.toNat * 256 + c.toNat) <<< 8 := by
    rw [← Nat.shiftLeft_add_eq_or_of_lt (by rw [Nat.shiftLeft_eq]; omega)]
    simp only [Nat.shiftLeft_eq]
    omega
  rw [high, upper, ← Nat.shiftLeft_add_eq_or_of_lt (by omega), Nat.shiftLeft_eq]
  omega

theorem decodeBe_illegal (width : Byte) (data : Bytes) (h : isFieldWidth width = false) :
    decodeBe width data = some (.invalidArgument .width) := by simp [decodeBe, widthUnsupported, h]

/-- DECODE_BE of a legal width has a value exactly when the data has that length (R101, R190). -/
theorem decodeBe_isSome (width : Byte) (data : Bytes) (h : isFieldWidth width = true) :
    (∃ v, decodeBe width data = some (.ok (.word v))) ↔ data.length = width.toNat := by
  rcases (isFieldWidth_iff width).1 h with rfl | rfl | rfl
  · match data with
    | [] => simp [decodeBe, widthUnsupported, isFieldWidth]
    | [a] => simp [decodeBe, widthUnsupported, isFieldWidth]
    | a :: b :: l => simp [decodeBe, widthUnsupported, isFieldWidth]
  · match data with
    | [] => simp [decodeBe, widthUnsupported, isFieldWidth]
    | [a] => simp [decodeBe, widthUnsupported, isFieldWidth]
    | [a, b] => simp [decodeBe, widthUnsupported, isFieldWidth]
    | a :: b :: c :: l => simp [decodeBe, widthUnsupported, isFieldWidth]
  · match data with
    | [] => simp [decodeBe, widthUnsupported, isFieldWidth]
    | [a] => simp [decodeBe, widthUnsupported, isFieldWidth]
    | [a, b] => simp [decodeBe, widthUnsupported, isFieldWidth]
    | [a, b, c] => simp [decodeBe, widthUnsupported, isFieldWidth]
    | [a, b, c, d] => simp [decodeBe, widthUnsupported, isFieldWidth]
    | a :: b :: c :: d :: e :: l => simp [decodeBe, widthUnsupported, isFieldWidth]

/-- The payload of a read of len bytes has len bytes (R93, R150). -/
theorem payload_length (len : Nat) (rx : Bytes) (h : rx.length = len + 1) : (payload len rx).length = len := by
  simp [payload, h]

theorem execDecodeBe_row (width : Byte) (data : Bytes) (s : State) :
    exec (Instr.decodeBe width data) s = ungated (decodeBe width data) s := by
  unfold Instr.decodeBe
  split
  · subst width; rfl
  · split
    · subst width; rfl
    · split
      · subst width; rfl
      · simp [exec, execDecodeBeOther, widthUnsupported, isFieldWidth, *]

/-- A refused name is not bound to the bytes of a result, and an accepted one is (R103). -/
theorem resolve_instr (rs : List Received) (i : Instr) : resolve rs (.instr i) = .ok i := rfl

end Sys2Proof.Machine
end

