-- ==== Sys2Proof/Laws/PerInstr.lean ====
section
/-! SUPPORT. Laws made instruction by instruction. FrameShapes: every frame in a command's encoding is one of the two shapes of the
wire, a write frame or a read frame (R100, R91, R92), and there are at most two (R254). -/
namespace Sys2Proof.Laws.FrameShapes

/-- What FrameShapes says of a command. -/
def Statement (i : Instr) : Prop :=
  (∀ f ∈ encodeFrames i, (decodeFrame f).isSome = true) ∧ (encodeFrames i).length ≤ 2

/-- A read frame of a legal length is a frame. -/
theorem readFrame_isSome (a : Byte) (n : Nat) (h : (Frame.read a n).wf = true) :
    (decodeFrame (.read, readFrame a n)).isSome = true := by simp [readFrame, decodeFrame, h]

/-- The read frame of a legal field width is a frame. -/
theorem widthFrame_isSome (a w : Byte) (h : isFieldWidth w = true) :
    (decodeFrame (.read, readFrame a w.toNat)).isSome = true := by
  apply readFrame_isSome
  rcases (isFieldWidth_iff w).1 h with rfl | rfl | rfl <;> rfl

/-- A register read pair of a legal width. -/
theorem pair_shapes (la : BitVec 16) (w : Byte) (h : isFieldWidth w = true) :
    ∀ f ∈ [((.write, pageSelectFrame ((pageOf la).setWidth 8)) : TaggedFrame),
        (.read, readFrame ((offsetOf la).setWidth 8) w.toNat)], (decodeFrame f).isSome = true := by
  intro f hf
  simp only [List.mem_cons, List.not_mem_nil, or_false] at hf
  rcases hf with rfl | rfl
  · rfl
  · exact widthFrame_isSome _ _ h

theorem split (la : BitVec 16) : Statement (.split la) := by simp [Statement, encodeFrames, Instr.hasIllegalOperand]

theorem selectPage (page : Byte) : Statement (.selectPage page) := by
  cases h : (Instr.selectPage page).hasIllegalOperand <;> simp [Statement, encodeFrames, h]
  rfl

theorem writeByte (addr value : Byte) : Statement (.writeByte addr value) := by
  simp [Statement, encodeFrames, Instr.hasIllegalOperand]
  rfl

theorem readBytes (addr : Byte) (len : BitVec 16) : Statement (.readBytes addr len) := by
  cases h : (Instr.readBytes addr len).hasIllegalOperand <;> simp [Statement, encodeFrames, h]
  apply readFrame_isSome
  simp only [Instr.hasIllegalOperand, Bool.or_eq_false_iff, decide_eq_false_iff_not] at h
  simp only [Frame.wf, Config.readLenMin, Config.readLenMax, Bool.and_eq_true, decide_eq_true_eq]
  bv_omega

theorem readRegister (la : BitVec 16) (width : Byte) : Statement (.readRegister la width) := by
  cases h : isFieldWidth width
  · simp [Statement, encodeFrames, Instr.hasIllegalOperand, h]
  · have hi : (Instr.readRegister la width).hasIllegalOperand = false := by simp [Instr.hasIllegalOperand, h]
    simp only [Statement, encodeFrames, hi, Bool.false_eq_true, if_false]
    exact ⟨pair_shapes la width h, by simp⟩

theorem decodeBe1 (data : Bytes) : Statement (.decodeBe1 data) := by
  simp [Statement, encodeFrames, Instr.hasIllegalOperand]

theorem decodeBe2 (data : Bytes) : Statement (.decodeBe2 data) := by
  simp [Statement, encodeFrames, Instr.hasIllegalOperand]

theorem decodeBe4 (data : Bytes) : Statement (.decodeBe4 data) := by
  simp [Statement, encodeFrames, Instr.hasIllegalOperand]

theorem decodeBeOther (width : Byte) (data : Bytes) : Statement (.decodeBeOther width data) := by
  simp [Statement, encodeFrames]

theorem readField (la : BitVec 16) (width : Byte) : Statement (.readField la width) := by
  cases h : isFieldWidth width
  · simp [Statement, encodeFrames, Instr.hasIllegalOperand, h]
  · have hi : (Instr.readField la width).hasIllegalOperand = false := by simp [Instr.hasIllegalOperand, h]
    simp only [Statement, encodeFrames, hi, Bool.false_eq_true, if_false]
    exact ⟨pair_shapes la width h, by simp⟩

end Sys2Proof.Laws.FrameShapes
end

