-- ==== Sys2Proof/Laws/Step.lean ====
section
/-! SUPPORT. Laws of the step: one equation for each kind of caller step, and the caller's names. -/
namespace Sys2Proof.Machine

theorem step_idle (s : State) (h : s.caller.pending = []) : step s = .refused .noCommand := by simp [step, h]

theorem step_setConfig (s : State) (device : DeviceId) (speedHz : BitVec 32) (mode : BitVec 2) (debug : Byte)
    (rest : List CallerStep) (h : s.caller.pending = .setConfig device speedHz mode debug :: rest) :
    step s = setConfig ⟨device, speedHz, mode, debug⟩ (s.issue none rest) := by simp [step, h]

theorem step_openSession (s : State) (rest : List CallerStep) (h : s.caller.pending = .openSession :: rest) :
    step s = openSession (s.issue none rest) := by simp [step, h]

theorem step_releaseSession (s : State) (rest : List CallerStep) (h : s.caller.pending = .releaseSession :: rest) :
    step s = releaseSession (s.issue none rest) := by simp [step, h]

/-- A line whose command record is resolved. -/
theorem step_line (s : State) (l : Line) (rest : List CallerStep) (i : Instr)
    (h : s.caller.pending = .line l :: rest) (hi : resolve s.caller.results l.cmd = .ok i) :
    step s = exec i (s.issue l.label rest) := by simp [step, h, hi]

/-- A line whose name operand has no bytes. -/
theorem step_line_unbound (s : State) (l : Line) (rest : List CallerStep) (n : Label)
    (h : s.caller.pending = .line l :: rest) (hn : resolve s.caller.results l.cmd = .error n) :
    step s = .refused (.unboundName n) := by simp [step, h, hn]

/-- What a step can be: the caller's list decides. -/
theorem step_cases (s t : State) (h : step s = .next t) :
    (∃ device speedHz mode debug rest, s.caller.pending = .setConfig device speedHz mode debug :: rest ∧
      setConfig ⟨device, speedHz, mode, debug⟩ (s.issue none rest) = .next t) ∨
    (∃ rest, s.caller.pending = .openSession :: rest ∧ openSession (s.issue none rest) = .next t) ∨
    (∃ rest, s.caller.pending = .releaseSession :: rest ∧ releaseSession (s.issue none rest) = .next t) ∨
    (∃ l rest i, s.caller.pending = .line l :: rest ∧ resolve s.caller.results l.cmd = .ok i ∧
      exec i (s.issue l.label rest) = .next t) := by
  match hp : s.caller.pending with
  | [] => rw [step_idle s hp] at h; cases h
  | .setConfig device speedHz mode debug :: rest =>
    rw [step_setConfig s _ _ _ _ _ hp] at h
    exact .inl ⟨device, speedHz, mode, debug, rest, rfl, h⟩
  | .openSession :: rest =>
    rw [step_openSession s _ hp] at h
    exact .inr (.inl ⟨rest, rfl, h⟩)
  | .releaseSession :: rest =>
    rw [step_releaseSession s _ hp] at h
    exact .inr (.inr (.inl ⟨rest, rfl, h⟩))
  | .line l :: rest =>
    match hr : resolve s.caller.results l.cmd with
    | .ok i =>
      rw [step_line s l rest i hp hr] at h
      exact .inr (.inr (.inr ⟨l, rest, i, rfl, hr, h⟩))
    | .error n => rw [step_line_unbound s l rest n hp hr] at h; cases h

/-- The caller's one setting of CFG (R27, R246). -/
theorem setConfig_eq_next (c : Cfg) (s t : State) :
    setConfig c s = .next t ↔ s.sess = .closed ∧ s.cfgSet = false ∧ t = { s with cfg := c, cfgSet := true } := by
  unfold setConfig
  cases s.sess <;> cases s.cfgSet <;> simp [eq_comm]

/-- Open, and configure on success (R241, R242). -/
theorem openSession_eq_next (s t : State) :
    openSession s = .next t ↔ s.sess = .closed ∧
      ((s.wire.opensDevice s.cfg = false ∧ t = { s with sess := .failed, caller := s.caller.receive .configError }) ∨
        (s.wire.opensDevice s.cfg = true ∧ t = State.configure { s with handle := true })) := by
  unfold openSession
  cases h : s.sess <;> cases ho : s.wire.opensDevice s.cfg <;> simp [eq_comm]

/-- Release (R244). -/
theorem releaseSession_eq_next (s t : State) :
    releaseSession s = .next t ↔
      ((s.sess = .opened ∨ s.sess = .failed ∧ s.handle = true) ∧ t = { s with sess := .released, handle := false }) ∨
      (s.sess = .failed ∧ s.handle = false ∧ t = s) := by
  unfold releaseSession
  cases s.sess <;> cases s.handle <;> simp [eq_comm]

/-- The last line that binds a name decides what the name means (R103). -/
theorem lookup_snoc (l : Label) (rs : List Received) (r : Received) :
    lookup l (rs ++ [r]) = if r.label = some l then some r.response else lookup l rs := by
  induction rs with
  | nil => simp [lookup]
  | cons a rs ih =>
    rw [List.cons_append, lookup, ih, lookup]
    by_cases h : r.label = some l <;> simp [h]

/-- Lines that bind other names do not change what a name means. -/
theorem lookup_append_other (l : Label) (rs qs : List Received) (h : ∀ q ∈ qs, q.label ≠ some l) :
    lookup l (rs ++ qs) = lookup l rs := by
  induction qs using List.reverseRecOn with
  | nil => simp
  | append_singleton qs q ih =>
    rw [← List.append_assoc, lookup_snoc, if_neg (h q (by simp)), ih (fun x hx => h x (by simp [hx]))]

end Sys2Proof.Machine
end

