-- ==== Sys2Proof/Laws/Text.lean ====
section
/-! SUPPORT. Laws of the textual form (R103): how a run of word characters is read, and what the printed numbers read back as. -/
namespace Sys2Proof

/-- A run of word characters joins the word under way. -/
theorem tokens_run (r : Bytes) : ∀ acc rest, r.all isWordChar = true → tokens acc (r ++ rest) = tokens (acc ++ r) rest := by
  induction r with
  | nil => intros; simp
  | cons c r ih =>
    intro acc rest h
    simp only [List.all_cons, Bool.and_eq_true] at h
    rw [List.cons_append, tokens, if_pos h.1, ih _ _ h.2, List.append_assoc, List.singleton_append]

theorem flushWord_of_ne_nil (r : Bytes) (h : r ≠ []) : flushWord r = [.word r] := by
  cases r with
  | nil => exact absurd rfl h
  | cons c r => rfl

/-- A word at the end of a line. -/
theorem tokens_word (r : Bytes) (h : r.all isWordChar = true) (hn : r ≠ []) : tokens [] r = .ok [.word r] := by
  have hr := tokens_run r [] [] h
  simp only [List.append_nil, List.nil_append] at hr
  rw [hr, tokens, flushWord_of_ne_nil r hn]

/-- A word and a space. -/
theorem tokens_word_space (r rest : Bytes) (h : r.all isWordChar = true) (hn : r ≠ []) :
    tokens [] (r ++ 0x20#8 :: rest) = (tokens [] rest).map (.word r :: ·) := by
  rw [tokens_run _ _ _ h, tokens, if_neg (by decide), if_neg (by decide), if_pos (by decide), List.nil_append,
    flushWord_of_ne_nil r hn]
  rfl

/-- A word, a comma and a space. -/
theorem tokens_word_comma (r rest : Bytes) (h : r.all isWordChar = true) (hn : r ≠ []) :
    tokens [] (r ++ 0x2C#8 :: 0x20#8 :: rest) = (tokens [] rest).map (.word r :: .comma :: ·) := by
  rw [tokens_run _ _ _ h, tokens, if_neg (by decide), if_neg (by decide), if_neg (by decide), if_pos (by decide),
    List.nil_append, flushWord_of_ne_nil r hn, tokens, if_neg (by decide), if_neg (by decide), if_pos (by decide)]
  cases tokens [] rest <;> rfl

theorem encodeByte_all (b : Byte) : (encodeByte b).all isWordChar = true := by
  simp only [encodeByte, List.all_cons, hexDigit_isWordChar]
  decide

theorem encodeHalf_all (h : BitVec 16) : (encodeHalf h).all isWordChar = true := by
  simp only [encodeHalf, List.all_cons, hexDigit_isWordChar]
  decide

theorem numberValue_hex (c : Byte) (cs : Bytes) :
    numberValue (0x30#8 :: 0x78#8 :: c :: cs) = digitsValue 16 hexDigitValue 0 (c :: cs) := rfl

/-- A printed u8 reads back. -/
theorem numberValue_encodeByte (b : Byte) : numberValue (encodeByte b) = some b.toNat := by
  have hb := b.isLt
  rw [encodeByte, numberValue_hex]
  simp only [digitsValue, hexDigitValue_hexDigit, BitVec.extractLsb'_toNat, Nat.shiftRight_eq_div_pow]
  congr 1
  omega

/-- A printed u16 reads back. -/
theorem numberValue_encodeHalf (h : BitVec 16) : numberValue (encodeHalf h) = some h.toNat := by
  have hh := h.isLt
  rw [encodeHalf, numberValue_hex]
  simp only [digitsValue, hexDigitValue_hexDigit, BitVec.extractLsb'_toNat, Nat.shiftRight_eq_div_pow]
  congr 1
  omega

@[simp] theorem fit_toNat {n : Nat} (b : BitVec n) : fit n b.toNat = .ok b := by simp [fit, b.isLt]

@[simp] theorem fitBytes_toNat (d : Bytes) : fitBytes (d.map BitVec.toNat) = .ok d := by
  induction d with
  | nil => rfl
  | cons b d ih => simp [fitBytes, ih, Except.bind, Except.map]

/-- A mnemonic's spelling is a word that spells it and nothing else. -/
theorem ofSpelling_spelling (m : Mnemonic) : Mnemonic.ofSpelling m.spelling = some m := by cases m <;> decide

theorem spelling_all (m : Mnemonic) : m.spelling.all isWordChar = true := by cases m <;> decide

end Sys2Proof
end

