-- ==== Sys2Proof/Tests/Slice0.lean ====
section
/-! SUPPORT. The model's own tests. Expected values are from the spec: the vectors of 95_test_vectors.md, named beside each test, and the
encodings of 30_encoding.md. After them, for each statement with hypotheses, a concrete state and operands that meet
them. -/
namespace Sys2Proof.Tests
open Sys2Proof Sys2Proof.Machine

/-! ## Helpers -/

/-- An open session with its answerer. -/
def opened (a : Answerer) : State :=
  { State.reset with sess := .opened, handle := true, wire := { State.reset.wire with device := a } }

/-- A given reply; `none` is the vectors' `xx`. -/
def reply (status : Status) (rx : List (Option Byte)) : PartialReply := ⟨some status, rx⟩

/-- An open session whose oracle's next replies are given (a premise on the oracle, D8). -/
def replying (rs : List PartialReply) : State := opened (.oracle rs)

/-- The response of the command just run. -/
def response : Host.Outcome State Fault Refusal → Option Response
  | .next t => t.lastResponse
  | _       => none

/-- HIST's kinds and frames after the command just run. -/
def sent : Host.Outcome State Fault Refusal → Option (List TaggedFrame)
  | .next t => some (t.wire.hist.map Event.sent)
  | _       => none

/-- Both. -/
def seen (o : Host.Outcome State Fault Refusal) : Option Response × Option (List TaggedFrame) := (response o, sent o)

/-- DEV.PAGE after the command just run. -/
def pageAfter : Host.Outcome State Fault Refusal → Option (BitVec 4)
  | .next t => some t.devPage
  | _       => none

/-- SESS after the step just taken. -/
def sessAfter : Host.Outcome State Fault Refusal → Option Session
  | .next t => some t.sess
  | _       => none

/-- The reason of a refusal. -/
def refusal : Host.Outcome State Fault Refusal → Option Refusal
  | .refused q => some q
  | _          => none

/-! ## WellFormed: one ill-formed term for each check -/

theorem test_wf_refuses_decodeBe1_length : (Instr.decodeBe1 []).wf = false := by decide
theorem test_wf_refuses_decodeBe2_length : (Instr.decodeBe2 [1#8]).wf = false := by decide
theorem test_wf_refuses_decodeBe4_length : (Instr.decodeBe4 [1#8, 2#8, 3#8, 4#8, 5#8]).wf = false := by decide
theorem test_wf_refuses_decodeBeOther_of_legal_width :
    [1#8, 2#8, 4#8].all (fun w => !(Instr.decodeBeOther w []).wf) = true := by decide
theorem test_wf_accepts_illegal_operands :
    [Instr.selectPage 16#8, .readBytes 0#8 0#16, .readRegister 1#16 3#8, .decodeBeOther 3#8 []].all Instr.wf = true := by
  decide
theorem test_wf_refuses_line_label_beginning_with_digit :
    Line.wf ⟨some [0x31#8], .instr (.split 0#16)⟩ = false := by decide
theorem test_wf_refuses_line_without_name_of_data : Line.wf ⟨none, .decodeResult 2#8 []⟩ = false := by decide
theorem test_wf_refuses_line_of_ill_formed_command : Line.wf ⟨none, .instr (.decodeBe2 [])⟩ = false := by decide
theorem test_wf_refuses_frame_lengths :
    (Frame.read 0#8 0).wf = false ∧ (Frame.read 0#8 256).wf = false ∧ (Frame.read 0#8 255).wf = true := by decide

/-! ## Decoding: words written out from the spec -/

/-- `split 4660` (R103; V-SPLIT-7's operand in decimal). -/
theorem test_decode_split :
    decode [0x73#8, 0x70#8, 0x6C#8, 0x69#8, 0x74#8, 0x20#8, 0x34#8, 0x36#8, 0x36#8, 0x30#8]
      = .ok (.split 0x1234#16) := by rfl

/-- The PSF of page 5 (R94, R122): 0111 1111, 0000 0101; and page 0. -/
theorem test_decode_selectPage :
    decodeFrames [(.write, [0b01111111#8, 0b00000101#8])] = some (.selectPage 5#8) ∧
    decodeFrames [(.write, [0b01111111#8, 0b00000000#8])] = some (.selectPage 0#8) := by decide

/-- WF (R91, R143, V-WB-5): upper nibble not 0, so no PSF; and another address. -/
theorem test_decode_writeByte :
    decodeFrames [(.write, [0b01111111#8, 0b11110011#8])] = some (.writeByte 0x7F#8 0xF3#8) ∧
    decodeFrames [(.write, [0b00010000#8, 0b00100000#8])] = some (.writeByte 0x10#8 0x20#8) := by decide

/-- RF(2) and RF(1) (R92, V-RB-1, V-RB-11). -/
theorem test_decode_readBytes :
    decodeFrames [(.read, [0b00000101#8, 0x00#8, 0x00#8])] = some (.readBytes 0x05#8 2#16) ∧
    decodeFrames [(.read, [0b10000000#8, 0x00#8])] = some (.readBytes 0x80#8 1#16) := by decide

/-- RRP(2) (R95, V-RR-3): page 5, offset 5. -/
theorem test_decode_readRegister :
    decodeFrames [(.write, [0b01111111#8, 0b00000101#8]), (.read, [0b00000101#8, 0x00#8, 0x00#8])]
      = some (.readRegister 0x0285#16 2#8) := by decide

/-- `decode_be 1, [0x42]` (R103, V-DEC-1). -/
theorem test_decode_decodeBe1 :
    decode [0x64#8, 0x65#8, 0x63#8, 0x6F#8, 0x64#8, 0x65#8, 0x5F#8, 0x62#8, 0x65#8, 0x20#8, 0x31#8, 0x2C#8, 0x20#8,
        0x5B#8, 0x30#8, 0x78#8, 0x34#8, 0x32#8, 0x5D#8]
      = .ok (.decodeBe1 [0x42#8]) := by rfl

/-- `decode_be 2, [0xAB, 0xCD]` (V-DEC-2). -/
theorem test_decode_decodeBe2 :
    decode [0x64#8, 0x65#8, 0x63#8, 0x6F#8, 0x64#8, 0x65#8, 0x5F#8, 0x62#8, 0x65#8, 0x20#8, 0x32#8, 0x2C#8, 0x20#8,
        0x5B#8, 0x30#8, 0x78#8, 0x41#8, 0x42#8, 0x2C#8, 0x20#8, 0x30#8, 0x78#8, 0x43#8, 0x44#8, 0x5D#8]
      = .ok (.decodeBe2 [0xAB#8, 0xCD#8]) := by rfl

/-- `decode_be 4, [0,0,1,44]` (V-DEC-6 in decimal). -/
theorem test_decode_decodeBe4 :
    decode [0x64#8, 0x65#8, 0x63#8, 0x6F#8, 0x64#8, 0x65#8, 0x5F#8, 0x62#8, 0x65#8, 0x20#8, 0x34#8, 0x2C#8, 0x20#8,
        0x5B#8, 0x30#8, 0x2C#8, 0x30#8, 0x2C#8, 0x31#8, 0x2C#8, 0x34#8, 0x34#8, 0x5D#8]
      = .ok (.decodeBe4 [0x00#8, 0x00#8, 0x01#8, 0x2C#8]) := by rfl

/-- `decode_be 3, [1]` (R103; another width). -/
theorem test_decode_decodeBeOther :
    decode [0x64#8, 0x65#8, 0x63#8, 0x6F#8, 0x64#8, 0x65#8, 0x5F#8, 0x62#8, 0x65#8, 0x20#8, 0x33#8, 0x2C#8, 0x20#8,
        0x5B#8, 0x31#8, 0x5D#8]
      = .ok (.decodeBeOther 3#8 [1#8]) := by rfl

/-- `v = read_field 0x0285, 2     ; x` (program P2's line, its comment shortened). -/
theorem test_decode_readField :
    decodeLine [0x76#8, 0x20#8, 0x3D#8, 0x20#8, 0x72#8, 0x65#8, 0x61#8, 0x64#8, 0x5F#8, 0x66#8, 0x69#8, 0x65#8, 0x6C#8,
        0x64#8, 0x20#8, 0x30#8, 0x78#8, 0x30#8, 0x32#8, 0x38#8, 0x35#8, 0x2C#8, 0x20#8, 0x32#8, 0x20#8, 0x3B#8, 0x20#8,
        0x78#8]
      = .ok ⟨some [0x76#8], .instr (.readField 0x0285#16 2#8)⟩ := by rfl

/-- `cv = decode_be 2, c` (program P1's second line). -/
theorem test_decode_named_data :
    decodeLine [0x63#8, 0x76#8, 0x20#8, 0x3D#8, 0x20#8, 0x64#8, 0x65#8, 0x63#8, 0x6F#8, 0x64#8, 0x65#8, 0x5F#8, 0x62#8,
        0x65#8, 0x20#8, 0x32#8, 0x2C#8, 0x20#8, 0x63#8]
      = .ok ⟨some [0x63#8, 0x76#8], .decodeResult 2#8 [0x63#8]⟩ := by rfl

/-- Two lines, the first blank: a program (R103, log 14). -/
theorem test_decode_program :
    decodeProgram [0x20#8, 0x0A#8, 0x73#8, 0x70#8, 0x6C#8, 0x69#8, 0x74#8, 0x20#8, 0x37#8]
      = .ok [⟨none, .instr (.split 7#16)⟩] := by rfl

/-- A page above u8 is no operand of SELECT_PAGE (R90, R101); a mnemonic that R103 does not list; a lone operand list. -/
theorem test_decode_rejects :
    decode [0x73#8, 0x65#8, 0x6C#8, 0x65#8, 0x63#8, 0x74#8, 0x5F#8, 0x70#8, 0x61#8, 0x67#8, 0x65#8, 0x20#8, 0x32#8,
      0x35#8, 0x36#8] = .error .operandRange ∧
    decode [0x6E#8, 0x6F#8, 0x70#8] = .error (.unknownMnemonic [0x6E#8, 0x6F#8, 0x70#8]) ∧
    decode [0x2C#8] = .error .noMnemonic ∧
    decode [0x21#8] = .error (.badCharacter 0x21#8) := ⟨rfl, rfl, rfl, rfl⟩

/-- A program text with one rejected line is rejected whole, the good line before it included (log 14): `split 7` and
`split 65536`. -/
theorem test_decode_program_rejected_whole :
    decodeProgram [0x73#8, 0x70#8, 0x6C#8, 0x69#8, 0x74#8, 0x20#8, 0x37#8, 0x0A#8, 0x73#8, 0x70#8, 0x6C#8, 0x69#8,
      0x74#8, 0x20#8, 0x36#8, 0x35#8, 0x35#8, 0x33#8, 0x36#8] = .error .operandRange := by rfl

/-- Frames of no command: a write frame of one byte, a read frame without filler, a filler that is not 0 (R91, R92). -/
theorem test_frames_rejected :
    decodeFrames [(.write, [0x7F#8])] = none ∧ decodeFrames [(.read, [0x7F#8])] = none ∧
    decodeFrames [(.read, [0x05#8, 0x01#8])] = none ∧ decodeFrames [] = none := by decide

/-- The opcode table's patterns: SELECT_PAGE's 0x7F00 with page 5, WRITE_BYTE at 0x10, READ_BYTES at 0x05. -/
theorem test_tableWord_rows :
    decodeTableWord 16 0x7F05 = some (.selectPage 5#8) ∧ decodeTableWord 16 0x1020 = some (.writeByte 0x10#8 0x20#8) ∧
    decodeTableWord 8 0x05 = some (.readBytes 0x05#8 1#16) ∧ decodeTableWord 0 0 = none := by decide

/-- The step runs a table word as the first command after reset; with a given reply its frame is seen. -/
theorem test_tableWord_runs :
    (∃ t : State, step (State.reset.withFetchWord 16 0x7F05) = .next t) ∧
    (∃ t : State, step (State.reset.withFetchWord 8 0x05) = .next t) ∧
    sent (step ((replying [reply 2#32 []]).withFetchWord 16 0x7F05)) = some [(.write, [0x7F#8, 0x05#8])] ∧
    sent (step ((replying [reply 2#32 []]).withFetchWord 8 0x05)) = some [(.read, [0x05#8, 0x00#8])] :=
  ⟨⟨_, rfl⟩, ⟨_, rfl⟩, by decide, by decide⟩

/-! ## SPLIT -/

/-- V-SPLIT-7: bits 15:11 are ignored. -/
theorem test_split_1234 : response (exec (.split 0x1234#16) State.reset) = some (.ok (.pair 4#4 0x34#7)) := by decide

/-- V-SPLIT-3 and V-SPLIT-13: the offset's top, the page's top. -/
theorem test_split_edges :
    response (exec (.split 0x007F#16) State.reset) = some (.ok (.pair 0#4 0x7F#7)) ∧
    response (exec (.split 0xFFFF#16) State.reset) = some (.ok (.pair 15#4 0x7F#7)) := by decide

/-! ## SELECT_PAGE -/

/-- V-SP-3 and V-SP-5: status 1 is success, a negative status is an error. -/
theorem test_selectPage_status :
    seen (exec (.selectPage 5#8) (replying [reply 1#32 []])) = (some (.ok .unit), some [(.write, [0x7F#8, 0x05#8])]) ∧
    seen (exec (.selectPage 5#8) (replying [reply (BitVec.ofInt 32 (-5)) []])) = (some .ioError, some [(.write, [0x7F#8, 0x05#8])]) := by
  decide

/-- V-SP-6 and V-SP-2 with the reference model. -/
theorem test_selectPage_range :
    seen (exec (.selectPage 16#8) (replying [])) = (some (.invalidArgument .pageRange), some []) ∧
    pageAfter (exec (.selectPage 15#8) (opened (.reference ⟨0#4, []⟩))) = some 15#4 := by decide

/-! ## WRITE_BYTE -/

/-- V-WB-3 and V-WB-4: statuses -1 and 0. -/
theorem test_writeByte_fails :
    seen (exec (.writeByte 0xFF#8 0xAA#8) (replying [reply (BitVec.ofInt 32 (-1)) []])) =
      (some .ioError, some [(.write, [0xFF#8, 0xAA#8])]) ∧
    response (exec (.writeByte 0x10#8 0x20#8) (replying [reply 0#32 []])) = some .ioError := by decide

/-- V-WB-5 with the reference model: the upper nibble is ignored by the device. -/
theorem test_writeByte_page :
    pageAfter (exec (.writeByte 0x7F#8 0xF3#8) (opened (.reference ⟨0#4, []⟩))) = some 3#4 ∧
    sent (exec (.writeByte 0x7F#8 0xF3#8) (opened (.reference ⟨0#4, []⟩))) = some [(.write, [0x7F#8, 0xF3#8])] := by
  decide

/-! ## READ_BYTES -/

/-- V-RB-5, V-RB-9 and V-RB-8: a wrong echo is accepted; the echo stub; a time-out. -/
theorem test_readBytes_replies :
    seen (exec (.readBytes 0x10#8 1#16) (replying [reply 2#32 [some 0x99#8, some 0xAB#8]])) =
      (some (.ok (.bytes [0xAB#8])), some [(.read, [0x10#8, 0x00#8])]) ∧
    response (exec (.readBytes 0x05#8 2#16) (opened .echo)) = some (.ok (.bytes [0x00#8, 0x00#8])) ∧
    response (exec (.readBytes 0x05#8 4#16) (replying [reply (BitVec.ofInt 32 (-110)) []])) = some .ioError := by decide

/-- V-RB-2, V-RB-3 and V-RB-10. -/
theorem test_readBytes_range :
    [0#16, 256#16, 65535#16].all (fun n =>
      seen (exec (.readBytes 0x05#8 n) (replying [])) == (some (.invalidArgument .lengthRange), some [])) = true := by
  decide

/-! ## READ_REGISTER -/

/-- V-RR-6 (an alias) and V-RR-2 (a failed select reads nothing). -/
theorem test_readRegister_select :
    seen (exec (.readRegister 0x0885#16 1#8) (replying [reply 2#32 [], reply 2#32 [none, some 0x11#8]])) =
      (some (.ok (.bytes [0x11#8])), some [(.write, [0x7F#8, 0x01#8]), (.read, [0x05#8, 0x00#8])]) ∧
    seen (exec (.readRegister 0x0285#16 2#8) (replying [reply 0#32 []])) =
      (some .ioError, some [(.write, [0x7F#8, 0x05#8])]) := by decide

/-- V-RR-8 with the reference model's byte, V-RR-4: below 0x7F the register byte, and a width that is none. -/
theorem test_readRegister_reference :
    (response (exec (.readRegister 0x0085#16 1#8) (opened (.reference ⟨7#4, [(0x085, 0x11#8)]⟩))) =
      some (.ok (.bytes [0x11#8]))) ∧
    seen (exec (.readRegister 0x0001#16 3#8) (replying [])) = (some (.invalidArgument .width), some []) := by decide

/-! ## DECODE_BE -/

/-- V-DEC-1; a wrong length is refused (R101). -/
theorem test_decodeBe1 :
    response (exec (.decodeBe1 [0x42#8]) State.reset) = some (.ok (.word 0x42#32)) ∧
    refusal (exec (.decodeBe1 []) State.reset) = some .dataLength := by decide

/-- V-DEC-5 and V-DEC-10. -/
theorem test_decodeBe2 :
    response (exec (.decodeBe2 [0x80#8, 0x00#8]) State.reset) = some (.ok (.word 32768#32)) ∧
    refusal (exec (.decodeBe2 [0x01#8]) State.reset) = some .dataLength := by decide

/-- V-DEC-3 and V-DEC-11. -/
theorem test_decodeBe4 :
    response (exec (.decodeBe4 [0x12#8, 0x34#8, 0x56#8, 0x78#8]) State.reset) = some (.ok (.word 0x12345678#32)) ∧
    response (exec (.decodeBe4 [0x80#8, 0x00#8, 0x00#8, 0x00#8]) State.reset) = some (.ok (.word 2147483648#32)) := by
  decide

/-- V-DEC-8 and V-DEC-9. -/
theorem test_decodeBeOther :
    response (exec (.decodeBeOther 3#8 [1#8, 2#8, 3#8]) State.reset) = some (.invalidArgument .width) ∧
    response (exec (.decodeBeOther 0#8 []) State.reset) = some (.invalidArgument .width) := by decide

/-! ## READ_FIELD -/

/-- V-L1-7: V-RR-10 followed by V-DEC-6. -/
theorem test_readField_300 :
    seen (exec (.readField 0x0007#16 4#8)
      (replying [reply 2#32 [], reply 5#32 [some 0x07#8, some 0#8, some 0#8, some 0x01#8, some 0x2C#8]])) =
      (some (.ok (.word 300#32)), some [(.write, [0x7F#8, 0x00#8]), (.read, [0x07#8, 0x00#8, 0x00#8, 0x00#8, 0x00#8])]) := by
  decide

/-- Program P2: a failed select stops the read. -/
theorem test_readField_failed_select :
    seen (exec (.readField 0x0285#16 2#8) (replying [reply 0#32 []])) = (some .ioError, some [(.write, [0x7F#8, 0x05#8])]) := by
  decide

/-! ## The session -/

/-- Reset with the outcomes of open and configure given, and steps to take. -/
def booting (opens accepts : Option Bool) (steps : List CallerStep) : State :=
  State.load { State.reset with wire := { State.reset.wire with opens := opens, accepts := accepts } } steps

/-- V-S-2: open fails. -/
theorem test_open_fails :
    sessAfter (step (booting (some false) none [.openSession])) = some .failed ∧
    response (step (booting (some false) none [.openSession])) = some .configError := by decide

/-- V-S-3 and V-S-4: configure rejected, and accepted. -/
theorem test_configure :
    sessAfter (step (booting (some true) (some false) [.openSession])) = some .failed ∧
    sessAfter (step (booting (some true) (some true) [.openSession])) = some .opened ∧
    response (step (booting (some true) (some true) [.openSession])) = some (.ok .unit) := by decide

/-- V-S-4's end: release. -/
theorem test_release : sessAfter (step ((replying []).load [.releaseSession])) = some .released := by decide

/-- V-S-5: `select_page 3` with SESS = CLOSED. -/
theorem test_closed_refuses : refusal (exec (.selectPage 3#8) State.reset) = some .sessionNotOpen := by decide

/-- Nothing to run. -/
theorem test_no_step_left : refusal (step State.reset) = some .noCommand := by decide

/-- CFG is set once, before open (R246). -/
theorem test_setConfig_twice :
    refusal (step (State.load { State.reset with cfgSet := true } [.setConfig ⟨[]⟩ 1#32 0#2 0#8])) = some .bootOrder := by
  decide

/-! ## Hypotheses of the statements are met -/

theorem witness_SelectPageSendsOneFrame :
    (replying []).sess = .opened ∧ 0x0F#8 < 0x10#8 ∧ 0x0F#8 < 0xFF#8 ∧ 0x0F#8 ≤ 0x0F#8 ∧ 0x00#8 ≤ 0x0F#8 := by decide

theorem witness_WriteByteSendsOneFrame : (replying []).sess = .opened := by decide

theorem witness_WriteByteToPageSelectIsSelectPage : 0x0F#8 ≤ 0x0F#8 ∧ 0x00#8 ≤ 0x0F#8 := by decide

/-- Two transports that report the same status with other bytes (V-WB-6), for a write, for a select alone, and for a select with
the same read reply after it (V-RR-12). -/
theorem witness_WriteReceiveBytesDiscarded :
    let after := reply 3#32 [some 0x05#8, some 0xAA#8, some 0xBB#8]
    let s₁ := replying [reply 2#32 [some 0xDE#8, some 0xAD#8], after]
    let s₂ := replying [reply 2#32 [some 0x00#8, some 0x00#8], after]
    s₁.sess = .opened ∧ s₂.sess = .opened ∧
    (s₁.wire.reply .write [0x20#8, 0x01#8]).status = (s₂.wire.reply .write [0x20#8, 0x01#8]).status ∧
    (s₁.wire.reply .write [0x20#8, 0x01#8]).rx ≠ (s₂.wire.reply .write [0x20#8, 0x01#8]).rx ∧
    0x0F#8 ≤ 0x0F#8 ∧ (2#8 = 1#8 ∨ 2#8 = 2#8 ∨ 2#8 = 4#8) ∧
    (s₁.wire.reply .write [0x7F#8, 0x05#8]).status = (s₂.wire.reply .write [0x7F#8, 0x05#8]).status ∧
    1 ≤ (s₁.wire.reply .write [0x7F#8, 0x05#8]).status.toInt ∧
    (s₁.wire.exchange .write [0x7F#8, 0x05#8]).reply .read [0x05#8, 0x00#8, 0x00#8] =
      (s₂.wire.exchange .write [0x7F#8, 0x05#8]).reply .read [0x05#8, 0x00#8, 0x00#8] := by decide

theorem witness_ReadBytesReturnsPayload :
    (replying []).sess = .opened ∧ (0#16 = 0#16 ∨ 255#16 < 0#16) ∧ (256#16 = 0#16 ∨ 255#16 < 256#16) ∧
    (1#16 ≤ 1#16 ∧ 1#16 ≤ 255#16) ∧ (1#16 ≤ 255#16 ∧ 255#16 ≤ 255#16) := by decide

/-- The echo slots 0x05 and 0x99 (V-RB-1, V-RB-5). -/
theorem witness_EchoSlotIgnored :
    let s₁ := replying [reply 2#32 [some 0x05#8, some 0xAB#8]]
    let s₂ := replying [reply 2#32 [some 0x99#8, some 0xAB#8]]
    (s₁.wire.reply .read [0x05#8, 0x00#8]).status = (s₂.wire.reply .read [0x05#8, 0x00#8]).status ∧
    (s₁.wire.reply .read [0x05#8, 0x00#8]).rx.drop 1 = (s₂.wire.reply .read [0x05#8, 0x00#8]).rx.drop 1 ∧
    ∃ t₁ t₂ : State, exec (.readBytes 0x05#8 1#16) s₁ = .next t₁ ∧ exec (.readBytes 0x05#8 1#16) s₂ = .next t₂ :=
  ⟨by decide, by decide, _, _, rfl, rfl⟩

/-- Widths on both sides of the check; a failed and a successful select (V-RR-2, V-RR-12). -/
theorem witness_ReadRegisterSelectsThenReads :
    (replying []).sess = .opened ∧
    ¬(3#8 = 1#8 ∨ 3#8 = 2#8 ∨ 3#8 = 4#8) ∧ ¬(0#8 = 1#8 ∨ 0#8 = 2#8 ∨ 0#8 = 4#8) ∧
    ¬(255#8 = 1#8 ∨ 255#8 = 2#8 ∨ 255#8 = 4#8) ∧ (4#8 = 1#8 ∨ 4#8 = 2#8 ∨ 4#8 = 4#8) ∧
    ((replying [reply 0#32 []]).wire.reply .write [0x7F#8, 0x05#8]).status.toInt < 1 ∧
    1 ≤ ((replying [reply 1#32 []]).wire.reply .write [0x7F#8, 0x05#8]).status.toInt := by decide

theorem witness_EveryReadSelectsItsPage :
    (2#8 = 1#8 ∨ 2#8 = 2#8 ∨ 2#8 = 4#8) ∧
    ∃ t : State, exec (.readRegister 0x0285#16 2#8) (replying []) = .next t := ⟨by decide, _, rfl⟩

theorem witness_SelectThenReadIsReadRegister :
    (2#8 = 1#8 ∨ 2#8 = 2#8 ∨ 2#8 = 4#8) ∧
    ∃ t : State, exec (.selectPage ((pageOf 0x0285#16).setWidth 8)) (replying [reply 2#32 []]) = .next t ∧
      t.lastResponse = some (.ok .unit) := ⟨by decide, _, rfl, rfl⟩

theorem witness_FixedRegistersAreReadWhole :
    Config.customConfigVersion ∈ Config.fixedRegisters ∧ (replying [reply 1#32 []]).sess = .opened ∧
    1 ≤ ((replying [reply 1#32 []]).wire.reply .write [0x7F#8, 0x00#8]).status.toInt := by decide

theorem witness_ReadFieldDecodesTheRegister : (replying []).sess = .opened := by decide

/-- Both branches: a register read that succeeds, whose second line decodes it; one whose select fails, whose second line is not
issued. -/
theorem witness_ReadFieldMatchesItsExpansion :
    (replying [reply 2#32 [], reply 2#32 [none, some 0x11#8]]).sess = .opened ∧ (replying [reply 0#32 []]).sess = .opened ∧
    (∃ t v : State, step ((replying [reply 2#32 [], reply 2#32 [none, some 0x11#8]]).load
        ((readFieldExpansion 0x0085#16 1#8).map .line)) = .next t ∧
      step t = .next v ∧ v.lastResponse = some (.ok (.word 0x11#32))) ∧
    ∃ t : State, step ((replying [reply 0#32 []]).load ((readFieldExpansion 0x0285#16 2#8).map .line)) = .next t ∧
      step t = .refused (.unboundName [0x74#8]) := ⟨rfl, rfl, ⟨_, _, rfl, rfl, rfl⟩, _, rfl, rfl⟩

theorem witness_DecodeRejectsOtherWidths :
    [0#8, 3#8, 5#8, 255#8].all (fun w => decide (¬(w = 1#8 ∨ w = 2#8 ∨ w = 4#8))) = true := by decide

theorem witness_DecodedValueIsBigEndianSum :
    ((1#8 : Byte) = 1#8 ∧ [0xFF#8].length = (1#8 : Byte).toNat) ∧
    ((2#8 : Byte) = 2#8 ∧ [0x80#8, 0x00#8].length = (2#8 : Byte).toNat) ∧
    ((4#8 : Byte) = 4#8 ∧ [0xFF#8, 0xFF#8, 0xFF#8, 0xFF#8].length = (4#8 : Byte).toNat) := by decide

theorem witness_DecodeRefusesWrongLength :
    ([] : Bytes).length ≠ 1 ∧ [0x01#8].length ≠ 2 ∧ [1#8, 2#8, 3#8, 4#8, 5#8].length ≠ 4 := by decide

theorem witness_TransportCommandsNeedOpenSession :
    (Instr.readBytes 0x05#8 2#16).gated = true ∧ State.reset.sess ≠ .opened ∧
    ({ State.reset with sess := .failed } : State).sess ≠ .opened ∧
    ({ State.reset with sess := .released } : State).sess ≠ .opened := by decide

/-- A gated command in an open session, a command without a gate in a closed one; and both ways not to be accepted. -/
theorem witness_AcceptedCommandsAnswerOnce :
    (replying []).Accepts (.selectPage 16#8) ∧ State.reset.Accepts (.split 0#16) ∧
    ¬State.reset.Accepts (.selectPage 3#8) ∧ ¬State.reset.Accepts (.decodeBe2 [0x01#8]) := by
  simp [State.Accepts, Instr.wf, Instr.gated, replying, opened, State.reset]

theorem witness_CommandsChangeOnlyHistoryAndResults :
    ∃ t : State, exec (.writeByte 0x10#8 0x20#8) (replying []) = .next t := ⟨_, rfl⟩

theorem witness_CommandsDependOnWireAndSessionOnly :
    (replying []).wire = ((replying []).withDebug 1#8).wire ∧ (replying []).sess = ((replying []).withDebug 1#8).sess :=
  ⟨rfl, rfl⟩

/-- A response of Ok, and one of IoError with an encoding sent in part (V-RR-10, V-RR-2). -/
theorem witness_WireTrafficIsTheEncoding :
    (∃ t : State, exec (.readRegister 0x0007#16 4#8) (replying [reply 2#32 [], reply 5#32 (List.replicate 5 (some 0#8))])
        = .next t ∧ t.lastResponse = some (.ok (.bytes (List.replicate 4 0#8)))) ∧
    ∃ t : State, exec (.readRegister 0x0285#16 2#8) (replying [reply 0#32 []]) = .next t ∧
      (State.newEvents (replying [reply 0#32 []]) t).length = 1 := ⟨⟨_, rfl, rfl⟩, _, rfl, rfl⟩

theorem witness_IllegalOperandsSendNothing :
    (Instr.readBytes 0x05#8 256#16).hasIllegalOperand = true ∧ (Instr.readBytes 0x05#8 255#16).hasIllegalOperand = false ∧
    (Instr.selectPage 0x10#8).hasIllegalOperand = true ∧ (Instr.readRegister 1#16 3#8).hasIllegalOperand = true ∧
    ∃ t : State, exec (.readBytes 0x05#8 256#16) (replying []) = .next t :=
  ⟨by decide, by decide, by decide, by decide, _, rfl⟩

/-- V-RR-3: the read fails after a successful select; V-RR-10: both succeed. -/
theorem witness_ErrorsArePrecise :
    (∃ t : State, exec (.readRegister 0x0285#16 2#8) (replying [reply 2#32 [], reply (BitVec.ofInt 32 (-1)) []]) = .next t ∧
      t.lastResponse = some .ioError) ∧
    ∃ t : State, exec (.selectPage 5#8) (replying [reply 2#32 []]) = .next t ∧ t.lastResponse = some (.ok .unit) :=
  ⟨⟨_, rfl, rfl⟩, _, rfl, rfl⟩

theorem witness_FrameCodecAgrees :
    (Frame.read 0x05#8 1).wf = true ∧ (Frame.read 0x05#8 255).wf = true ∧ (Frame.write 0xFF#8 0xAA#8).wf = true ∧
    decodeFrame (.read, [0x05#8, 0x00#8]) = some (.read 0x05#8 1) := by decide

theorem witness_FramesDecodeToTheirCommand :
    encodeFrames (.readRegister 0xFFFF#16 4#8) ≠ [] ∧ encodeFrames (.readBytes 0x05#8 255#16) ≠ [] ∧
    encodeFrames (.selectPage 15#8) ≠ [] ∧ encodeFrames (.writeByte 0x7F#8 0x10#8) ≠ [] := by decide

theorem witness_TextOfCommandReadsBack :
    (Instr.decodeBeOther 0#8 []).wf = true ∧ (Instr.decodeBe4 [1#8, 2#8, 3#8, 4#8]).wf = true := by decide

theorem witness_TextOfLineReadsBack :
    Line.wf ⟨some [0x63#8, 0x76#8], .decodeResult 2#8 [0x63#8]⟩ = true ∧ Line.wf ⟨none, .instr (.split 0#16)⟩ = true := by
  decide

theorem witness_OpenThenConfigure :
    (booting none none [.openSession]).sess = .closed ∧
    (booting none none [.openSession]).caller.pending = .openSession :: [] := ⟨rfl, rfl⟩

/-- A session with its state and handle, the caller about to release it. -/
def releasing (k : Session) (held : Bool) : State :=
  State.load { State.reset with sess := k, handle := held } [.releaseSession]

theorem witness_ReleaseGivesUpTheHandle :
    (releasing .opened true).caller.pending = .releaseSession :: [] ∧
    ((releasing .opened true).sess = .opened) ∧
    ((releasing .failed true).sess = .failed ∧ (releasing .failed true).handle = true) ∧
    ((releasing .failed false).sess = .failed ∧ (releasing .failed false).handle = false) ∧
    ((releasing .closed false).sess = .closed) ∧ ((releasing .released false).sess = .released) :=
  ⟨rfl, rfl, ⟨rfl, rfl⟩, ⟨rfl, rfl⟩, rfl, rfl⟩

/-- The caller about to set CFG. -/
def configuring (k : Session) (done : Bool) : State :=
  State.load { State.reset with sess := k, cfgSet := done } [.setConfig ⟨[0x61#8]⟩ 500000#32 3#2 1#8]

theorem witness_SetConfigOnlyOnceBeforeOpen :
    (configuring .closed false).caller.pending = .setConfig ⟨[0x61#8]⟩ 500000#32 3#2 1#8 :: [] ∧
    ((configuring .closed false).sess = .closed ∧ (configuring .closed false).cfgSet = false) ∧
    ((configuring .opened false).sess ≠ .closed) ∧ ((configuring .closed true).cfgSet = true) :=
  ⟨rfl, ⟨rfl, rfl⟩, by decide, rfl⟩

/-- A step that changes CFG, a command that does not, and a step after CFG is set. -/
theorem witness_ConfigurationIsImmutable :
    (∃ t : State, exec (.split 0#16) State.reset = .next t) ∧
    (∃ t : State, step (configuring .closed false) = .next t ∧ t.cfg ≠ (configuring .closed false).cfg) ∧
    ∃ t : State, step (State.load { State.reset with cfgSet := true } [.openSession]) = .next t := by
  refine ⟨⟨_, rfl⟩, ⟨_, rfl, ?_⟩, _, rfl⟩
  intro h
  exact absurd (congrArg Cfg.speedHz h) (by decide)

theorem witness_SessionMovesOnlyByBootAndRelease :
    (∃ t : State, step (booting (some true) (some true) [.openSession]) = .next t) ∧
    (∃ t : State, step (releasing .failed true) = .next t) ∧
    ∃ t : State, step ((replying []).load [.line ⟨none, .instr (.selectPage 3#8)⟩]) = .next t :=
  ⟨⟨_, rfl⟩, ⟨_, rfl⟩, _, rfl⟩

theorem witness_EndedSessionSendsNothing :
    (∃ t : State, (releasing .failed false).sess = .failed ∧ step (releasing .failed false) = .next t) ∧
    ∃ t : State, step (State.load { State.reset with sess := .released } [.line ⟨none, .instr (.split 0x285#16)⟩])
      = .next t := ⟨⟨_, rfl, rfl⟩, _, rfl⟩

/-- `split 7` as the next line. -/
theorem witness_StepRunsTheDecodedLine :
    decodeLine [0x73#8, 0x70#8, 0x6C#8, 0x69#8, 0x74#8, 0x20#8, 0x37#8] = .ok ⟨none, .instr (.split 7#16)⟩ ∧
    (State.load State.reset [.line ⟨none, .instr (.split 7#16)⟩]).caller.pending
      = .line ⟨none, .instr (.split 7#16)⟩ :: [] ∧
    resolve (State.load State.reset [.line ⟨none, .instr (.split 7#16)⟩]).caller.results (.instr (.split 7#16))
      = .ok (.split 7#16) := ⟨rfl, rfl, rfl⟩

theorem witness_StepRunsTheTableWord : decodeTableWord 16 0x7F00 = some (.selectPage 0#8) := by decide

/-- The caller has bound `c` to [0E 95] and decodes it (program P1). -/
def decodingC (width : Byte) : State :=
  { State.reset with
    caller :=
      { pending := [.line ⟨none, .decodeResult width [0x63#8]⟩], binder := none,
        results := [⟨some [0x63#8], .ok (.bytes [0x0E#8, 0x95#8])⟩, ⟨none, .ioError⟩] } }

theorem witness_NamedDataIsTheLastResultOfTheName :
    (decodingC 2#8).caller.pending = .line ⟨none, .decodeResult 2#8 [0x63#8]⟩ :: [] ∧
    (decodingC 2#8).caller.results = [] ++ ⟨some [0x63#8], .ok (.bytes [0x0E#8, 0x95#8])⟩ :: [⟨none, .ioError⟩] ∧
    (∀ r ∈ [(⟨none, .ioError⟩ : Received)], r.label ≠ some [0x63#8]) ∧
    (isFieldWidth 2#8 = true → [0x0E#8, 0x95#8].length = (2#8 : Byte).toNat) := ⟨rfl, rfl, by decide, by decide⟩

/-- The named data of program P1's second line decodes to 0x0E95 (V-DEC-12). -/
theorem test_named_data : response (step (decodingC 2#8)) = some (.ok (.word 0x0E95#32)) := by decide

theorem witness_HistoryIsAppendOnly :
    ∃ t : State, step ((replying []).load [.line ⟨none, .instr (.readRegister 1#16 2#8)⟩]) = .next t := ⟨_, rfl⟩

theorem witness_EveryStepKeepsTheInvariant :
    State.Inv ((opened (.reference ⟨3#4, [(0x190, 0xBE#8)]⟩)).load [.releaseSession]) ∧
    ∃ t : State, step ((opened (.reference ⟨3#4, [(0x190, 0xBE#8)]⟩)).load [.releaseSession]) = .next t :=
  ⟨⟨fun _ h => absurd h (List.not_mem_nil), rfl, rfl⟩, _, rfl⟩

/-- The boundary pages, lengths and widths; and commands with and without a page-select frame in their encoding. -/
theorem witness_ReferenceDevicePage :
    (opened (.reference ⟨0#4, []⟩)).sess = .opened ∧ (opened (.reference ⟨0#4, []⟩)).wire.device = .reference ⟨0#4, []⟩ ∧
    0x0F#8 ≤ 0x0F#8 ∧ (1#16 ≤ 1#16 ∧ 1#16 ≤ 255#16) ∧ (1#16 ≤ 255#16 ∧ 255#16 ≤ 255#16) ∧
    (4#8 = 1#8 ∨ 4#8 = 2#8 ∨ 4#8 = 4#8) ∧
    (Kind.write, [0x7F#8, 0x0F#8]) ∈ encodeFrames (.readField 0x07FF#16 1#8) ∧
    (∀ v : Byte, (Kind.write, [0x7F#8, v]) ∉ encodeFrames (.readBytes 0x7F#8 1#16)) ∧
    (∀ v : Byte, (Kind.write, [0x7F#8, v]) ∉ encodeFrames (.selectPage 0x10#8)) := by decide

/-- Writes to 0x7F and elsewhere, a read, and a rejected read, one of each clause's commands completing. -/
theorem witness_ReferenceDevicePage_steps :
    pageAfter (exec (.writeByte 0x7F#8 0xFF#8) (opened (.reference ⟨0#4, []⟩))) = some 15#4 ∧
    pageAfter (exec (.writeByte 0x7E#8 0xFF#8) (opened (.reference ⟨2#4, []⟩))) = some 2#4 ∧
    pageAfter (exec (.readBytes 0x7F#8 4#16) (opened (.reference ⟨2#4, []⟩))) = some 2#4 ∧
    pageAfter (exec (.readBytes 0x7F#8 256#16) (opened (.reference ⟨2#4, []⟩))) = some 2#4 ∧
    pageAfter (exec (.readField 0x07FF#16 1#8) (opened (.reference ⟨2#4, []⟩))) = some 15#4 := by decide

/-- The last span that stays below wire address 0x7F: offset 0x7B, width 4. -/
theorem witness_ReferenceDeviceReadsRegisters :
    (opened (.reference ⟨0#4, []⟩)).sess = .opened ∧ (opened (.reference ⟨0#4, []⟩)).wire.device = .reference ⟨0#4, []⟩ ∧
    (4#8 = 1#8 ∨ 4#8 = 2#8 ∨ 4#8 = 4#8) ∧ (offsetOf 0x00FB#16).toNat + (4#8 : Byte).toNat ≤ 0x7F := by decide

theorem witness_NoCommandWritesDeviceRegisters :
    (opened (.reference ⟨0#4, [(0x085, 0x11#8)]⟩)).wire.device = .reference ⟨0#4, [(0x085, 0x11#8)]⟩ ∧
    ∃ t : State, exec (.writeByte 0x05#8 0x22#8) (opened (.reference ⟨0#4, [(0x085, 0x11#8)]⟩)) = .next t := ⟨rfl, _, rfl⟩

theorem witness_EchoStubReadsZeros :
    (opened .echo).sess = .opened ∧ (opened .echo).wire.device = .echo ∧ (1#16 ≤ 1#16 ∧ 1#16 ≤ 255#16) ∧
    (1#16 ≤ 255#16 ∧ 255#16 ≤ 255#16) ∧ (1#8 = 1#8 ∨ 1#8 = 2#8 ∨ 1#8 = 4#8) ∧
    (4#8 = 1#8 ∨ 4#8 = 2#8 ∨ 4#8 = 4#8) := by decide

/-- A span that ends at the top of DEV.REG; an address outside it on each side. -/
theorem witness_DeviceMemoryReadAfterWrite :
    0x7FE + [0xBE#8, 0xEF#8].length ≤ 0x800 ∧ (0x7FD < 0x7FE ∨ 0x7FE + [0xBE#8, 0xEF#8].length ≤ 0x7FD) ∧
    (0x800 < 0x7FE ∨ 0x7FE + [0xBE#8, 0xEF#8].length ≤ 0x800) := by decide

end Sys2Proof.Tests
end

section
/-! PROOFS. DEV.REG as a memory (R12, R35): what a read returns after a write. -/
namespace Sys2Proof.Machine

theorem Memory.byte_set_same (o : Nat) (m : Memory) (x : Nat) (v : Byte) (hx : x < Config.laReach) :
    Memory.byte o (Memory.set m x v) x = v := by
  simp [Memory.byte, Memory.get_set m x x v hx]

/-- No bound on the address set: beyond DEV.REG a set does nothing. -/
theorem Memory.byte_set_of_ne (o : Nat) (m : Memory) {x y : Nat} (v : Byte) (hxy : x ≠ y) :
    Memory.byte o (Memory.set m x v) y = Memory.byte o m y := by
  by_cases hx : x < Config.laReach
  · simp [Memory.byte, Memory.get_set m x y v hx, hxy]
  · simp [Memory.set, hx]

theorem memRead_succ (o : Nat) (m : Memory) (la n : Nat) :
    memRead o m la (n + 1) = Memory.byte o m la :: memRead o m (la + 1) n := by
  simp [memRead, List.range_succ_eq_map, Function.comp_def, Nat.add_assoc, Nat.add_comm 1]

/-- The frame of MemWrite: an address outside the span reads as before. -/
theorem Memory.byte_memWrite_of_outside (o : Nat) (vs : Bytes) : ∀ (m : Memory) (la a : Nat),
    a < la ∨ la + vs.length ≤ a → Memory.byte o (memWrite m la vs) a = Memory.byte o m a := by
  induction vs with
  | nil => intros; rfl
  | cons v vs ih =>
    intro m la a ha
    rw [List.length_cons] at ha
    calc Memory.byte o (memWrite (Memory.set m la v) (la + 1) vs) a
        = Memory.byte o (Memory.set m la v) a := ih _ _ a (by omega)
      _ = Memory.byte o m a := Memory.byte_set_of_ne o m v (by omega)

/-- The first byte survives the rest of the write because the rest starts above it. -/
theorem memRead_memWrite (o : Nat) (vs : Bytes) : ∀ (m : Memory) (la : Nat),
    la + vs.length ≤ Config.laReach → memRead o (memWrite m la vs) la vs.length = vs := by
  induction vs with
  | nil => intros; rfl
  | cons v vs ih =>
    intro m la hspan
    rw [List.length_cons] at hspan
    have hfirst : Memory.byte o (memWrite (Memory.set m la v) (la + 1) vs) la = v := by
      rw [Memory.byte_memWrite_of_outside o vs _ _ _ (.inl (Nat.lt_succ_self la))]
      exact Memory.byte_set_same o m la v (by omega)
    have hrest : memRead o (memWrite (Memory.set m la v) (la + 1) vs) (la + 1) vs.length = vs :=
      ih _ _ (by omega)
    rw [List.length_cons, memRead_succ, memWrite, hfirst, hrest]

/-- Settles O54: read-back and frame of MemWrite, each by induction on the bytes written. -/
theorem deviceMemoryReadAfterWrite : Obligations.DeviceMemoryReadAfterWrite :=
  fun o m la vs hspan => ⟨memRead_memWrite o vs m la hspan, Memory.byte_memWrite_of_outside o vs m la⟩

end Sys2Proof.Machine
end

section
/-! PROOFS. What a command can do, said once (R20, R27, R28, R101, R245): which frames reach the transport, and that nothing but
the transport and the caller's results changes. -/
namespace Sys2Proof.Machine

/-- The transport after a run of exchanges, one for each frame in order (R28). -/
def Wire.exchanges (w : Wire) (fs : List TaggedFrame) : Wire := fs.foldl (fun w f => w.exchange f.1 f.2) w

section exchanges
variable (w : Wire) (f : TaggedFrame) (fs : List TaggedFrame)

@[simp] theorem Wire.exchanges_nil : w.exchanges [] = w := rfl

@[simp] theorem Wire.exchanges_cons : w.exchanges (f :: fs) = (w.exchange f.1 f.2).exchanges fs := rfl

@[simp] theorem Wire.exchanges_oracle : (w.exchanges fs).oracle = w.oracle := by
  induction fs generalizing w with
  | nil => rfl
  | cons f fs ih => simp [ih]

@[simp] theorem Wire.exchanges_opens : (w.exchanges fs).opens = w.opens := by
  induction fs generalizing w with
  | nil => rfl
  | cons f fs ih => simp [ih]

@[simp] theorem Wire.exchanges_accepts : (w.exchanges fs).accepts = w.accepts := by
  induction fs generalizing w with
  | nil => rfl
  | cons f fs ih => simp [ih]

/-- HIST grows by one event for each frame, in order. -/
theorem Wire.exchanges_hist : ∃ new, (w.exchanges fs).hist = w.hist ++ new ∧ new.map Event.sent = fs := by
  induction fs generalizing w with
  | nil => exact ⟨[], by simp⟩
  | cons f fs ih =>
    obtain ⟨new, hhist, hsent⟩ := ih (w.exchange f.1 f.2)
    exact ⟨w.event f.1 f.2 :: new, by simp [hhist], by simp [hsent]⟩

end exchanges

/-- A command's encoding lists at most two frames (R94, R95). -/
theorem encodeFrames_length_le (i : Instr) : (encodeFrames i).length ≤ 2 := by
  unfold encodeFrames
  split
  · exact Nat.zero_le 2
  · cases i <;> simp

/-- What a body leaves behind it: the transport after an initial part of the frames that the command's encoding lists. -/
def SendsEncoding (i : Instr) (body : Wire → Response × Wire) : Prop :=
  ∀ w, ∃ fs, fs <+: encodeFrames i ∧ (body w).2 = w.exchanges fs

theorem sendsEncoding_writeByte (a v : Byte) : SendsEncoding (.writeByte a v) (writeFrameBody a v) :=
  fun w => ⟨_, List.prefix_rfl, by rw [writeFrameBody_eq]; rfl⟩

theorem sendsEncoding_selectPage (page : Byte) : SendsEncoding (.selectPage page) (selectPageBody page) := by
  intro w
  cases h : pageTooLarge page with
  | true => exact ⟨[], List.nil_prefix, by rw [selectPageBody_illegal _ _ h]; rfl⟩
  | false =>
    have hframes : encodeFrames (.selectPage page) = [(.write, pageSelectFrame page)] :=
      if_neg (Bool.eq_false_iff.1 h)
    exact ⟨_, List.prefix_rfl, by rw [hframes, selectPageBody_legal _ _ h]; rfl⟩

theorem sendsEncoding_readBytes (a : Byte) (len : BitVec 16) : SendsEncoding (.readBytes a len) (readBytesBody a len) := by
  intro w
  cases h : lengthOutOfRange len with
  | true => exact ⟨[], List.nil_prefix, by rw [readBytesBody_illegal _ _ _ h]; rfl⟩
  | false =>
    have hframes : encodeFrames (.readBytes a len) = [(.read, readFrame a len.toNat)] :=
      if_neg (Bool.eq_false_iff.1 h)
    exact ⟨_, List.prefix_rfl, by rw [hframes, readBytesBody_legal _ _ _ h]; rfl⟩

theorem sendsEncoding_readRegister (la : BitVec 16) (width : Byte) :
    SendsEncoding (.readRegister la width) (readRegisterBody la width) := by
  intro w
  have hframes (h : isFieldWidth width = true) : encodeFrames (.readRegister la width) =
      [(.write, pageSelectFrame (pageOperand (pageOf la))),
        (.read, readFrame (offsetOperand (offsetOf la)) width.toNat)] :=
    if_neg (by simpa [Instr.hasIllegalOperand] using h)
  obtain ⟨_, hbody⟩ | ⟨hw, _, hbody⟩ | ⟨hw, _, hbody⟩ := readRegisterBody_cases la width w
  · exact ⟨[], List.nil_prefix, by rw [hbody]; rfl⟩
  · exact ⟨[(.write, pageSelectFrame (pageOperand (pageOf la)))], by rw [hframes hw]; simp, by rw [hbody]; rfl⟩
  · exact ⟨_, List.prefix_rfl, by rw [hframes hw, hbody]; rfl⟩

/-- READ_FIELD has the frames and the traffic of READ_REGISTER (R104). -/
theorem sendsEncoding_readField (la : BitVec 16) (width : Byte) :
    SendsEncoding (.readField la width) (readFieldBody la width) := sendsEncoding_readRegister la width

/-- A command is one of three, whatever the state: a body behind the session gate, which sends frames of its encoding; a response
without the transport; or no record of its row (R101, R190, R245). -/
theorem exec_cases (i : Instr) :
    (∃ body, SendsEncoding i body ∧ ∀ s, exec i s = gated body s) ∨
    (∃ r, ∀ s, exec i s = ungated r s) ∨
    (∀ s, exec i s = .refused .notThisRow) := by
  cases i with
  | split la => exact .inr (.inl ⟨some (.ok (.pair (pageOf la) (offsetOf la))), fun _ => rfl⟩)
  | selectPage page => exact .inl ⟨_, sendsEncoding_selectPage page, fun _ => rfl⟩
  | writeByte a v => exact .inl ⟨_, sendsEncoding_writeByte a v, fun _ => rfl⟩
  | readBytes a len => exact .inl ⟨_, sendsEncoding_readBytes a len, fun _ => rfl⟩
  | readRegister la width => exact .inl ⟨_, sendsEncoding_readRegister la width, fun _ => rfl⟩
  | decodeBe1 data => exact .inr (.inl ⟨_, fun _ => rfl⟩)
  | decodeBe2 data => exact .inr (.inl ⟨_, fun _ => rfl⟩)
  | decodeBe4 data => exact .inr (.inl ⟨_, fun _ => rfl⟩)
  | decodeBeOther width data =>
    cases h : widthUnsupported width with
    | true => exact .inr (.inl ⟨decodeBe width data, fun s => by simp [exec, execDecodeBeOther, h]⟩)
    | false => exact .inr (.inr fun s => by simp [exec, execDecodeBeOther, h])
  | readField la width => exact .inl ⟨_, sendsEncoding_readField la width, fun _ => rfl⟩

/-- A command that completes has made the exchanges of an initial part of its encoding and delivered one response; nothing else has
changed (R20, R27). -/
theorem exec_eq_next {i : Instr} {s t : State} (h : exec i s = .next t) :
    ∃ fs r, fs <+: encodeFrames i ∧ t = s.answered (s.wire.exchanges fs) r := by
  obtain ⟨body, hsends, hexec⟩ | ⟨r, hexec⟩ | hexec := exec_cases i
  · rw [hexec] at h
    obtain ⟨-, rfl⟩ := (gated_eq_next body s t).1 h
    obtain ⟨fs, hprefix, hwire⟩ := hsends s.wire
    exact ⟨fs, _, hprefix, by rw [hwire]⟩
  · rw [hexec] at h
    obtain ⟨x, -, rfl⟩ := (ungated_eq_next r s t).1 h
    exact ⟨[], x, List.nil_prefix, rfl⟩
  · rw [hexec] at h
    cases h

/-- Settles O24: a completed command is `answered` after a run of exchanges, and neither touches another field. -/
theorem commandsChangeOnlyHistoryAndResults : Obligations.CommandsChangeOnlyHistoryAndResults := by
  intro i s t h
  obtain ⟨fs, r, -, rfl⟩ := exec_eq_next h
  obtain ⟨new, hhist, -⟩ := s.wire.exchanges_hist fs
  refine ⟨rfl, rfl, rfl, rfl, rfl, rfl, ?_, ?_, ?_, ⟨new, hhist⟩, ⟨r, rfl⟩⟩
  · exact s.wire.exchanges_oracle fs
  · exact s.wire.exchanges_opens fs
  · exact s.wire.exchanges_accepts fs

/-- Settles O25: the gate reads SESS alone, a body reads the transport alone, and no other part of the state reaches either. -/
theorem commandsDependOnWireAndSessionOnly : Obligations.CommandsDependOnWireAndSessionOnly := by
  intro i s₁ s₂ hwire hsess
  obtain ⟨body, -, hexec⟩ | ⟨r, hexec⟩ | hexec := exec_cases i
  · by_cases ho : s₁.sess = .opened
    · refine .inl ⟨(body s₁.wire).2, (body s₁.wire).1, ?_, ?_⟩
      · rw [hexec, gated_opened body s₁ ho]
      · rw [hexec, gated_opened body s₂ (hsess ▸ ho), hwire]
    · refine .inr ⟨.sessionNotOpen, ?_, ?_⟩
      · rw [hexec, gated_not_opened body s₁ ho]
      · rw [hexec, gated_not_opened body s₂ (hsess ▸ ho)]
  · cases r with
    | some x => exact .inl ⟨s₁.wire, x, by rw [hexec, ungated_some], by rw [hexec, ungated_some, hwire]⟩
    | none => exact .inr ⟨.dataLength, hexec s₁, hexec s₂⟩
  · exact .inr ⟨.notThisRow, hexec s₁, hexec s₂⟩

end Sys2Proof.Machine
end

section
/-! PROOFS. What a step leaves unchanged: CFG, SESS and the handle, HIST (R21, R27, R28, R241 to R246), and the debug level, which
no step reads (R26). -/
namespace Sys2Proof.Machine

section configure
variable (s : State)

@[simp] theorem State.configure_handle : s.configure.handle = s.handle := by
  obtain ⟨-, h⟩ | ⟨-, h⟩ := s.configure_cases <;> rw [h]

@[simp] theorem State.configure_cfg : s.configure.cfg = s.cfg := by
  obtain ⟨-, h⟩ | ⟨-, h⟩ := s.configure_cases <;> rw [h]

@[simp] theorem State.configure_cfgSet : s.configure.cfgSet = s.cfgSet := by
  obtain ⟨-, h⟩ | ⟨-, h⟩ := s.configure_cases <;> rw [h]

@[simp] theorem State.configure_wire : s.configure.wire = s.wire := by
  obtain ⟨-, h⟩ | ⟨-, h⟩ := s.configure_cases <;> rw [h]

theorem State.configure_sess : s.configure.sess = .opened ∨ s.configure.sess = .failed := by
  obtain ⟨-, h⟩ | ⟨-, h⟩ := s.configure_cases
  · exact .inl (by rw [h])
  · exact .inr (by rw [h])

end configure

/-- The frame of open: it goes from CLOSED to OPEN with a handle or to FAILED, and leaves CFG and the transport (R241, R242). -/
theorem openSession_frame {s t : State} (h : openSession s = .next t) :
    s.sess = .closed ∧ ((t.sess = .opened ∧ t.handle = true) ∨ t.sess = .failed) ∧
      t.cfg = s.cfg ∧ t.cfgSet = s.cfgSet ∧ t.wire = s.wire := by
  obtain ⟨hclosed, ⟨-, rfl⟩ | ⟨-, rfl⟩⟩ := (openSession_eq_next s t).1 h
  · exact ⟨hclosed, .inr rfl, rfl, rfl, rfl⟩
  · refine ⟨hclosed, ?_, by simp, by simp, by simp⟩
    exact (State.configure_sess _).imp (fun ho => ⟨ho, by simp⟩) id

/-- The frame of release: it gives up a held handle or changes neither SESS nor handle, and leaves CFG and the transport (R244). -/
theorem releaseSession_frame {s t : State} (h : releaseSession s = .next t) :
    (((s.sess = .opened ∨ s.sess = .failed ∧ s.handle = true) ∧ t.sess = .released ∧ t.handle = false) ∨
        (t.sess = s.sess ∧ t.handle = s.handle)) ∧
      t.cfg = s.cfg ∧ t.cfgSet = s.cfgSet ∧ t.wire = s.wire := by
  obtain ⟨hheld, rfl⟩ | ⟨-, -, rfl⟩ := (releaseSession_eq_next s t).1 h
  · exact ⟨.inl ⟨hheld, rfl, rfl⟩, rfl, rfl, rfl⟩
  · exact ⟨.inr ⟨rfl, rfl⟩, rfl, rfl, rfl⟩

/-- A step leaves CFG and the record of its setting, or it is the caller's one setting (R27, R246). -/
theorem step_cfg {s t : State} (h : step s = .next t) :
    (t.cfg = s.cfg ∧ t.cfgSet = s.cfgSet) ∨
    (s.sess = .closed ∧ s.cfgSet = false ∧ t.cfgSet = true ∧ t.sess = .closed) := by
  obtain ⟨device, speedHz, mode, debug, rest, -, h⟩ | ⟨rest, -, h⟩ | ⟨rest, -, h⟩ | ⟨l, rest, i, -, -, h⟩ :=
    step_cases s t h
  · obtain ⟨hclosed, hunset, rfl⟩ := (setConfig_eq_next _ _ t).1 h
    exact .inr ⟨hclosed, hunset, rfl, hclosed⟩
  · obtain ⟨-, -, hcfg, hset, -⟩ := openSession_frame h
    exact .inl ⟨hcfg, hset⟩
  · obtain ⟨-, hcfg, hset, -⟩ := releaseSession_frame h
    exact .inl ⟨hcfg, hset⟩
  · obtain ⟨fs, r, -, rfl⟩ := exec_eq_next h
    exact .inl ⟨rfl, rfl⟩

/-- Settles O40: no command writes CFG, and `step_cfg` says which step does. -/
theorem configurationIsImmutable : Obligations.ConfigurationIsImmutable := by
  refine ⟨fun i s t h => ?_, fun s t h hne => ?_, fun s t h hset => ?_⟩
  · obtain ⟨fs, r, -, rfl⟩ := exec_eq_next h
    rfl
  · exact (step_cfg h).resolve_left fun hsame => hne hsame.1
  · obtain ⟨-, hsame⟩ | ⟨-, -, hnow, -⟩ := step_cfg h
    · exact hsame.trans hset
    · exact hnow

/-- Settles O41: setting CFG and every command leave SESS and the handle; open and release move them as their frames say. -/
theorem sessionMovesOnlyByBootAndRelease : Obligations.SessionMovesOnlyByBootAndRelease := by
  intro s t h
  obtain ⟨device, speedHz, mode, debug, rest, -, h⟩ | ⟨rest, hp, h⟩ | ⟨rest, hp, h⟩ | ⟨l, rest, i, -, -, h⟩ :=
    step_cases s t h
  · obtain ⟨-, -, rfl⟩ := (setConfig_eq_next _ _ t).1 h
    exact .inl ⟨rfl, rfl⟩
  · obtain ⟨hclosed, hmoved, -⟩ := openSession_frame h
    exact .inr (.inl ⟨rest, hp, hclosed, hmoved⟩)
  · obtain ⟨⟨hheld, hmoved⟩ | hsame, -⟩ := releaseSession_frame h
    · exact .inr (.inr ⟨rest, hp, hheld, hmoved⟩)
    · exact .inl hsame
  · obtain ⟨fs, r, -, rfl⟩ := exec_eq_next h
    exact .inl ⟨rfl, rfl⟩

/-- A step makes the exchanges of at most two frames on the transport: those of a command's encoding, none in a session step. -/
theorem step_wire {s t : State} (h : step s = .next t) : ∃ fs, fs.length ≤ 2 ∧ t.wire = s.wire.exchanges fs := by
  obtain ⟨device, speedHz, mode, debug, rest, -, h⟩ | ⟨rest, -, h⟩ | ⟨rest, -, h⟩ | ⟨l, rest, i, -, -, h⟩ :=
    step_cases s t h
  · obtain ⟨-, -, rfl⟩ := (setConfig_eq_next _ _ t).1 h
    exact ⟨[], Nat.zero_le 2, rfl⟩
  · obtain ⟨-, -, -, -, hwire⟩ := openSession_frame h
    exact ⟨[], Nat.zero_le 2, hwire⟩
  · obtain ⟨-, -, -, hwire⟩ := releaseSession_frame h
    exact ⟨[], Nat.zero_le 2, hwire⟩
  · obtain ⟨fs, r, hprefix, rfl⟩ := exec_eq_next h
    exact ⟨fs, hprefix.length_le.trans (encodeFrames_length_le i), rfl⟩

/-- Settles O47: each of the at most two exchanges of a step appends its one event. -/
theorem historyIsAppendOnly : Obligations.HistoryIsAppendOnly := by
  intro s t h
  obtain ⟨fs, hlen, hwire⟩ := step_wire h
  obtain ⟨new, hhist, hsent⟩ := s.wire.exchanges_hist fs
  refine ⟨new, by rw [hwire, hhist], ?_⟩
  rwa [← hsent, List.length_map] at hlen

section debug
variable (s : State) (d : Byte)

theorem sameOutside_withDebug : SameOutside (.next s) (.next (s.withDebug d)) := ⟨rfl, rfl, rfl, rfl⟩

/-- Setting CFG overwrites the debug level, so that the two outcomes are one. -/
theorem setConfig_withDebug (c : Cfg) : SameOutside (setConfig c s) (setConfig c (s.withDebug d)) := by
  simp only [setConfig, State.withDebug_sess, State.withDebug_cfgSet]
  split
  · exact ⟨rfl, rfl, rfl, rfl⟩
  · rfl

/-- The transport is asked with the device, mode, word size and speed, not with the debug level (R242). -/
theorem State.configure_withDebug : (s.withDebug d).configure = s.configure.withDebug d := by
  have hsame : (s.withDebug d).wire.acceptsSettings (s.withDebug d).cfg = s.wire.acceptsSettings s.cfg := rfl
  unfold State.configure
  rw [hsame]
  split <;> rfl

theorem openSession_withDebug : SameOutside (openSession s) (openSession (s.withDebug d)) := by
  have hsame : (s.withDebug d).wire.opensDevice (s.withDebug d).cfg = s.wire.opensDevice s.cfg := rfl
  unfold openSession
  rw [hsame, State.withDebug_sess]
  cases s.sess with
  | closed =>
    cases s.wire.opensDevice s.cfg with
    | false => exact ⟨rfl, rfl, rfl, rfl⟩
    | true =>
      rw [if_pos rfl, if_pos rfl]
      exact State.configure_withDebug { s with handle := true } d ▸ sameOutside_withDebug _ d
  | opened => rfl
  | failed => rfl
  | released => rfl

theorem releaseSession_withDebug : SameOutside (releaseSession s) (releaseSession (s.withDebug d)) := by
  simp only [releaseSession, State.withDebug_sess, State.withDebug_handle]
  split
  · exact ⟨rfl, rfl, rfl, rfl⟩
  · exact ⟨rfl, rfl, rfl, rfl⟩
  · exact sameOutside_withDebug s d
  · rfl
  · rfl

/-- A command reads the transport and SESS alone (O25), and the debug level is in neither. -/
theorem exec_withDebug (i : Instr) : SameOutside (exec i s) (exec i (s.withDebug d)) := by
  obtain ⟨w, r, h, h'⟩ | ⟨q, h, h'⟩ := commandsDependOnWireAndSessionOnly i s (s.withDebug d) rfl rfl
  · rw [h, h']
    exact ⟨rfl, rfl, rfl, rfl⟩
  · rw [h, h']
    rfl

end debug

/-- Settles O43: each kind of caller step has the same outcome to the outside at either debug level. -/
theorem debugLevelHasNoEffect : Obligations.DebugLevelHasNoEffect := by
  intro s d
  match hp : s.caller.pending with
  | [] =>
    rw [step_idle s hp, step_idle (s.withDebug d) hp]
    rfl
  | .setConfig .. :: rest =>
    rw [step_setConfig s _ _ _ _ rest hp, step_setConfig (s.withDebug d) _ _ _ _ rest hp]
    exact setConfig_withDebug _ d _
  | .openSession :: rest =>
    rw [step_openSession s rest hp, step_openSession (s.withDebug d) rest hp]
    exact openSession_withDebug _ d
  | .releaseSession :: rest =>
    rw [step_releaseSession s rest hp, step_releaseSession (s.withDebug d) rest hp]
    exact releaseSession_withDebug _ d
  | .line l :: rest =>
    match hr : resolve s.caller.results l.cmd with
    | .ok i =>
      rw [step_line s l rest i hp hr, step_line (s.withDebug d) l rest i hp hr]
      exact exec_withDebug _ d i
    | .error n =>
      rw [step_line_unbound s l rest n hp hr, step_line_unbound (s.withDebug d) l rest n hp hr]
      rfl

end Sys2Proof.Machine
end

section
/-! PROOFS. One exchange, the state after reset, and the codes (R21, R28, R29, R36, R210, R211, R240). -/
namespace Sys2Proof.Machine

/-- Settles O29: the event is that of `Wire.exchange`, and every answerer replies with the frame's length. -/
theorem exchangeRecordsOneEvent : Obligations.ExchangeRecordsOneEvent :=
  fun w k tx => ⟨Wire.exchange_hist w k tx, Wire.reply_rx_length w k tx⟩

/-- Settles O36: each field of `State.reset` is the stated one. -/
theorem resetValues : Obligations.ResetValues := ⟨rfl, rfl, rfl, rfl, rfl, rfl, rfl⟩

/-- Settles O49: HIST is empty, a CLOSED session holds no handle, and no device registers are held. -/
theorem invariantAtReset : Obligations.InvariantAtReset where
  hist    := fun _ he => absurd he List.not_mem_nil
  session := rfl
  regs    := State.reset_regs_wf

theorem Response.cause_isSome_iff (r : Response) : r.cause.isSome = true ↔ r.code = 1 := by
  cases r <;> simp [Response.cause, Response.code]

theorem Response.fatal_iff (r : Response) : r.fatal = true ↔ r.code = 3 := by
  cases r <;> simp [Response.fatal, Response.code]

/-- Settles O55: the codes are read off the tables, and a response's code tells its cause and whether it is fatal. -/
theorem codesAreAsTabled : Obligations.CodesAreAsTabled :=
  ⟨rfl, rfl, fun _ _ => rfl, fun r => ⟨r.cause_isSome_iff, r.fatal_iff⟩⟩

end Sys2Proof.Machine
end

section
/-! PROOFS. The address split (R50 to R52, R56, R170): what it is as arithmetic, and which addresses it does not tell apart. -/
namespace Sys2Proof.Machine

/-- Page and offset lie in lanes of their own, so the or of R51 is a sum. -/
theorem joinAddr_toNat (p : BitVec 4) (o : BitVec 7) : (joinAddr p o).toNat = p.toNat * 128 + o.toNat := by
  have hp := p.isLt
  have ho := o.isLt
  simp only [joinAddr, BitVec.toNat_or, BitVec.toNat_shiftLeft, BitVec.toNat_setWidth]
  rw [Nat.mod_eq_of_lt (show p.toNat < 2 ^ 16 by omega), Nat.mod_eq_of_lt (show o.toNat < 2 ^ 16 by omega),
    Nat.mod_eq_of_lt (show p.toNat <<< 7 < 2 ^ 16 by rw [Nat.shiftLeft_eq]; omega),
    ← Nat.shiftLeft_add_eq_or_of_lt (by omega), Nat.shiftLeft_eq]

theorem pageOf_joinAddr (p : BitVec 4) (o : BitVec 7) : pageOf (joinAddr p o) = p := by
  apply BitVec.eq_of_toNat_eq
  rw [pageOf_toNat, joinAddr_toNat]
  omega

theorem offsetOf_joinAddr (p : BitVec 4) (o : BitVec 7) : offsetOf (joinAddr p o) = o := by
  apply BitVec.eq_of_toNat_eq
  rw [offsetOf_toNat, joinAddr_toNat]
  omega

/-- Page and offset together are the low eleven bits of the address (R51). -/
theorem pageOf_mul_add_offsetOf (la : BitVec 16) :
    (pageOf la).toNat * 0x80 + (offsetOf la).toNat = la.toNat % 0x800 := by
  rw [pageOf_toNat, offsetOf_toNat]
  omega

/-- Settles O2: `joinAddr` reaches the pair, and an address below 0x800 is determined by its page and offset. -/
theorem splitReachesEachRegisterByteOnce : Obligations.SplitReachesEachRegisterByteOnce := by
  refine ⟨pageOf_mul_add_offsetOf, fun p o => ⟨joinAddr p o, ⟨?_, pageOf_joinAddr p o, offsetOf_joinAddr p o⟩, ?_⟩⟩
  · rw [joinAddr_toNat]
    omega
  · rintro lb hlt rfl rfl
    apply BitVec.eq_of_toNat_eq
    rw [joinAddr_toNat, pageOf_mul_add_offsetOf, Nat.mod_eq_of_lt hlt]

theorem toNat_and_lowEleven (la : BitVec 16) : (la &&& 0x07FF#16).toNat = la.toNat % 0x800 := by
  rw [BitVec.toNat_and, show (0x07FF#16).toNat = 2 ^ 11 - 1 from rfl, Nat.and_two_pow_sub_one_eq_mod]

/-- The page is read off the low eleven bits (R52). -/
theorem pageOf_and_lowEleven (la : BitVec 16) : pageOf (la &&& 0x07FF#16) = pageOf la := by
  apply BitVec.eq_of_toNat_eq
  rw [pageOf_toNat, pageOf_toNat, toNat_and_lowEleven]
  omega

/-- The offset is read off the low eleven bits (R52). -/
theorem offsetOf_and_lowEleven (la : BitVec 16) : offsetOf (la &&& 0x07FF#16) = offsetOf la := by
  apply BitVec.eq_of_toNat_eq
  rw [offsetOf_toNat, offsetOf_toNat, toNat_and_lowEleven]
  omega

/-- READ_REGISTER reads its address through page and offset alone (R52, R175). -/
theorem readRegisterBody_and_lowEleven (la : BitVec 16) (width : Byte) :
    readRegisterBody (la &&& 0x07FF#16) width = readRegisterBody la width := by
  unfold readRegisterBody
  rw [pageOf_and_lowEleven, offsetOf_and_lowEleven]

/-- Settles O3: the three commands use the address through its page and offset alone, and the aliases share both. -/
theorem highAddressesAlias : Obligations.HighAddressesAlias := by
  intro la width s
  refine ⟨?_, ?_, ?_⟩
  · simp only [exec, execSplit, pageOf_and_lowEleven, offsetOf_and_lowEleven]
  · simp only [exec, execReadRegister, readRegisterBody_and_lowEleven]
  · unfold exec execReadField readFieldBody
    simp only [readRegisterBody_and_lowEleven]

theorem exchangeFailed_eq_false {status : Status} (h : 1 ≤ status.toInt) : exchangeFailed status = false :=
  decide_eq_false (by omega)

/-- READ_REGISTER of a legal width whose select succeeds sends both its frames, and no other (R95, R175). -/
theorem exec_readRegister_selected_sent (la : BitVec 16) (width : Byte) (s : State) (ho : s.sess = .opened)
    (hw : isFieldWidth width = true)
    (hf : exchangeFailed (s.wire.reply .write (pageSelectFrame (pageOperand (pageOf la)))).status = false) :
    ∃ t, exec (.readRegister la width) s = .next t ∧ (s.newEvents t).map Event.sent =
      [(.write, pageSelectFrame (pageOperand (pageOf la))),
        (.read, readFrame (offsetOperand (offsetOf la)) width.toNat)] := by
  refine ⟨_, gated_opened _ s ho, ?_⟩
  rw [readRegisterBody_selected la width _ hw hf, readBytesBody_legal _ _ _ (lengthOperand_legal width hw),
    lengthOperand_toNat]
  simp [State.newEvents]

/-- What R56 and R251 say of the four registers: a legal width, page 0, a span inside the page, the offset the address itself. -/
theorem fixedRegisters_facts : ∀ r ∈ Config.fixedRegisters,
    isFieldWidth r.width = true ∧ pageOf r.la = 0#4 ∧ (offsetOf r.la).toNat + r.width.toNat ≤ 0x7F ∧
      offsetOperand (offsetOf r.la) = r.la.setWidth 8 := by decide

/-- Settles O13: the table's facts, and the two frames of a READ_REGISTER whose select of page 0 succeeds. -/
theorem fixedRegistersAreReadWhole : Obligations.FixedRegistersAreReadWhole := by
  refine ⟨rfl, fun r hr s ho hsel => ?_⟩
  obtain ⟨hw, hpage, hspan, hoff⟩ := fixedRegisters_facts r hr
  have hframe : pageSelectFrame (pageOperand (pageOf r.la)) = [0x7F#8, 0x00#8] := by rw [hpage]; rfl
  have hf : exchangeFailed (s.wire.reply .write (pageSelectFrame (pageOperand (pageOf r.la)))).status = false := by
    rw [hframe]
    exact exchangeFailed_eq_false hsel
  obtain ⟨t, hexec, hsent⟩ := exec_readRegister_selected_sent r.la r.width s ho hw hf
  refine ⟨hpage, hspan, t, hexec, ?_⟩
  rw [hsent, hframe, hoff, readFrame]

end Sys2Proof.Machine
end

section
/-! PROOFS. The transports of the tests (R59, R60, decision D9): the device reference model and the echo stub report a frame's length
as status, so that every command with legal operands sends its whole encoding and succeeds. -/
namespace Sys2Proof.Machine

/-- The answerers that are for tests: the echo stub (R60) and the device reference model (R59). -/
def Answerer.ForTests (a : Answerer) : Prop := a = .echo ∨ ∃ d, a = .reference d

/-- The device after an exchange of the reference model (R59). -/
theorem Wire.exchange_reference {w : Wire} {d : RefDevice} (h : w.device = .reference d) (k : Kind) (tx : Bytes) :
    (w.exchange k tx).device = .reference (d.answer w.oracle k tx).2 := by
  simp only [Wire.exchange, h, Answerer.answer]

theorem Wire.reply_reference {w : Wire} {d : RefDevice} (h : w.device = .reference d) (k : Kind) (tx : Bytes) :
    w.reply k tx = (d.answer w.oracle k tx).1.complete w.oracle w.hist k tx := by
  simp only [Wire.reply, h, Answerer.answer]

/-- A test transport stays one. -/
theorem Wire.exchange_forTests {w : Wire} (h : w.device.ForTests) (k : Kind) (tx : Bytes) :
    (w.exchange k tx).device.ForTests := by
  obtain hd | ⟨d, hd⟩ := h
  · exact .inl (w.exchange_echo hd k tx).2
  · exact .inr ⟨_, Wire.exchange_reference hd k tx⟩

/-- The length of a frame, read as a signed status, is no failure (R29, R141). -/
theorem exchangeFailed_ofNat {n : Nat} (h : n ≤ Config.readLenMax) : exchangeFailed (BitVec.ofNat 32 (n + 1)) = false := by
  apply exchangeFailed_eq_false
  rw [Config.readLenMax] at h
  rw [BitVec.toInt_ofNat', Int.bmod_eq_of_le (by omega) (by omega)]
  omega

theorem Wire.write_accepted {w : Wire} (h : w.device.ForTests) (a v : Byte) :
    exchangeFailed (w.reply .write (writeFrame a v)).status = false := by
  obtain hd | ⟨d, hd⟩ := h
  · rw [(w.exchange_echo hd .write _).1]
    exact exchangeFailed_ofNat (n := 1) (by decide)
  · rw [(w.write_reference d hd a v).1]
    exact exchangeFailed_ofNat (n := 1) (by decide)

theorem Wire.select_accepted {w : Wire} (h : w.device.ForTests) (page : Byte) :
    exchangeFailed (w.reply .write (pageSelectFrame page)).status = false := Wire.write_accepted h _ _

theorem Wire.read_accepted {w : Wire} (h : w.device.ForTests) (a : Byte) {n : Nat} (hn : n ≤ Config.readLenMax) :
    exchangeFailed (w.reply .read (readFrame a n)).status = false := by
  obtain hd | ⟨d, hd⟩ := h
  · rw [(w.exchange_echo hd .read _).1, readFrame_length]
    exact exchangeFailed_ofNat hn
  · rw [(w.read_reference d hd a n).1]
    exact exchangeFailed_ofNat hn

theorem unlessFailed_of_accepted {status : Status} (r : Response) (h : exchangeFailed status = false) :
    unlessFailed status r = r := by simp [unlessFailed, h]

theorem pageTooLarge_eq_false {page : Byte} : pageTooLarge page = false ↔ page ≤ 0x0F#8 := by simp [pageTooLarge]

theorem lengthOutOfRange_eq_false {len : BitVec 16} : lengthOutOfRange len = false ↔ 1#16 ≤ len ∧ len ≤ 255#16 := by
  simp only [lengthOutOfRange, Bool.or_eq_false_iff, decide_eq_false_iff_not, BitVec.not_lt]

/-! The transport after READ_REGISTER's two exchanges, and the payload that the second brings (R95, R175). -/

/-- The transport after the select of la's page. -/
def Wire.selected (w : Wire) (la : BitVec 16) : Wire := w.exchange .write (pageSelectFrame (pageOperand (pageOf la)))

/-- The frame that reads width bytes at la's offset. -/
def registerFrame (la : BitVec 16) (width : Byte) : Bytes := readFrame (offsetOperand (offsetOf la)) width.toNat

/-- The frames of READ_REGISTER, written out (R94, R95). -/
theorem pageSelectFrame_pageOf (la : BitVec 16) :
    pageSelectFrame (pageOperand (pageOf la)) = [0x7F#8, (la.extractLsb' 7 4).setWidth 8] := by
  rw [pageSelectFrame, pageSelectValue_pageOperand, pageOf_eq_extract]
  rfl

theorem registerFrame_eq (la : BitVec 16) (width : Byte) :
    registerFrame la width = (la.extractLsb' 0 7).setWidth 8 :: List.replicate width.toNat 0x00#8 := by
  rw [registerFrame, offsetOf_eq_extract]
  rfl

/-- The transport after the select and the read. -/
def Wire.registerRead (w : Wire) (la : BitVec 16) (width : Byte) : Wire :=
  (w.selected la).exchange .read (registerFrame la width)

/-- The payload of the read after the select. -/
def Wire.registerPayload (w : Wire) (la : BitVec 16) (width : Byte) : Bytes :=
  payload width.toNat ((w.selected la).reply .read (registerFrame la width)).rx

@[simp] theorem Wire.registerPayload_length (w : Wire) (la : BitVec 16) (width : Byte) :
    (w.registerPayload la width).length = width.toNat :=
  payload_length _ _ (by simp [registerFrame])

theorem readRegisterBody_forTests {w : Wire} (ht : w.device.ForTests) (la : BitVec 16) {width : Byte}
    (hw : isFieldWidth width = true) :
    readRegisterBody la width w = (.ok (.bytes (w.registerPayload la width)), w.registerRead la width) := by
  have hn : width.toNat ≤ Config.readLenMax := Nat.le_of_lt_succ width.isLt
  rw [readRegisterBody_selected la width w hw (Wire.select_accepted ht _),
    readBytesBody_legal _ _ _ (lengthOperand_legal width hw), lengthOperand_toNat,
    unlessFailed_of_accepted _ (Wire.read_accepted (Wire.exchange_forTests ht _ _) _ hn)]
  rfl

/-! Each command with legal operands, in an open session. -/

section commands
variable {s : State} (ho : s.sess = .opened) (ht : s.wire.device.ForTests)
include ho ht

theorem exec_writeByte_forTests (a v : Byte) :
    exec (.writeByte a v) s = .next (s.answered (s.wire.exchange .write (writeFrame a v)) (.ok .unit)) := by
  have hexec : exec (.writeByte a v) s = _ := gated_opened (writeFrameBody a v) s ho
  rw [hexec, writeFrameBody_eq, unlessFailed_of_accepted _ (Wire.write_accepted ht a v)]

theorem exec_selectPage_forTests {page : Byte} (hp : pageTooLarge page = false) :
    exec (.selectPage page) s = .next (s.answered (s.wire.exchange .write (pageSelectFrame page)) (.ok .unit)) := by
  have hexec : exec (.selectPage page) s = _ := gated_opened (selectPageBody page) s ho
  rw [hexec, selectPageBody_legal _ _ hp, unlessFailed_of_accepted _ (Wire.select_accepted ht page)]

theorem exec_readBytes_forTests (a : Byte) {len : BitVec 16} (hl : lengthOutOfRange len = false) :
    exec (.readBytes a len) s = .next (s.answered (s.wire.exchange .read (readFrame a len.toNat))
      (.ok (.bytes (payload len.toNat (s.wire.reply .read (readFrame a len.toNat)).rx)))) := by
  have hexec : exec (.readBytes a len) s = _ := gated_opened (readBytesBody a len) s ho
  have hn : len.toNat ≤ Config.readLenMax := (lengthOutOfRange_eq_false.1 hl).2
  rw [hexec, readBytesBody_legal _ _ _ hl, unlessFailed_of_accepted _ (Wire.read_accepted ht a hn)]

theorem exec_readRegister_forTests (la : BitVec 16) {width : Byte} (hw : isFieldWidth width = true) :
    exec (.readRegister la width) s =
      .next (s.answered (s.wire.registerRead la width) (.ok (.bytes (s.wire.registerPayload la width)))) := by
  have hexec : exec (.readRegister la width) s = _ := gated_opened (readRegisterBody la width) s ho
  rw [hexec, readRegisterBody_forTests ht la hw]

theorem exec_readField_forTests (la : BitVec 16) {width : Byte} (hw : isFieldWidth width = true) :
    exec (.readField la width) s = .next (s.answered (s.wire.registerRead la width)
      (decodeResponse width (.ok (.bytes (s.wire.registerPayload la width))))) := by
  have hexec : exec (.readField la width) s = _ := gated_opened (readFieldBody la width) s ho
  rw [hexec, readFieldBody, readRegisterBody_forTests ht la hw]

/-- On a test transport a command sends its whole encoding: none for illegal operands, else all, for no exchange fails. -/
theorem exec_forTests_wire {i : Instr} {t : State} (h : exec i s = .next t) : t.wire = s.wire.exchanges (encodeFrames i) := by
  by_cases hnone : encodeFrames i = []
  · obtain ⟨fs, r, hprefix, rfl⟩ := exec_eq_next h
    rw [hnone] at hprefix ⊢
    rw [List.prefix_nil.1 hprefix, State.answered_wire]
  have hlegal : i.hasIllegalOperand = false := Bool.eq_false_iff.2 fun hill => hnone (if_pos hill)
  have hframes : encodeFrames i = _ := if_neg (Bool.eq_false_iff.1 hlegal)
  rw [hframes]
  cases i with
  | split | decodeBe1 | decodeBe2 | decodeBe4 | decodeBeOther => exact absurd hframes hnone
  | selectPage page =>
    cases (exec_selectPage_forTests ho ht hlegal).symm.trans h
    rfl
  | writeByte a v =>
    cases (exec_writeByte_forTests ho ht a v).symm.trans h
    rfl
  | readBytes a len =>
    cases (exec_readBytes_forTests ho ht a hlegal).symm.trans h
    rfl
  | readRegister la width =>
    cases (exec_readRegister_forTests ho ht la ((Bool.not_eq_false' _).mp hlegal)).symm.trans h
    rfl
  | readField la width =>
    cases (exec_readField_forTests ho ht la ((Bool.not_eq_false' _).mp hlegal)).symm.trans h
    rfl

end commands

end Sys2Proof.Machine
end

section
/-! PROOFS. The device reference model (R59, R51, R55): page-select frames set DEV.PAGE, reads of a span below wire address 0x7F
return DEV.REG of that page, and nothing writes DEV.REG. -/
namespace Sys2Proof.Machine

/-- Below wire address 0x7F a payload byte is DEV.REG of the current page (R59). -/
theorem RefDevice.payloadByte_of_lt (d : RefDevice) (o : Nat) (a : Byte) (i : Nat) (hi : a.toNat + i < 0x7F) :
    d.payloadByte o a i = some (Memory.byte o d.regs (d.page.toNat * Config.pageSize + a.toNat + i)) := by
  rw [RefDevice.payloadByte, if_pos (show a.toNat + i < Config.pageSelAddr.toNat from hi)]
  simp [memRead, Nat.add_assoc]

section reference
variable {w : Wire} {d : RefDevice} (h : w.device = .reference d)
include h

/-- The four bits that a page select sends of a page index are the index (R55, R94). -/
theorem Wire.exchange_select_reference (page : Byte) :
    (w.exchange .write (pageSelectFrame page)).device = .reference { d with page := page.extractLsb' 0 4 } := by
  have hlow : (pageSelectValue page).extractLsb' 0 4 = page.extractLsb' 0 4 := by revert page; decide
  rw [pageSelectFrame, (w.write_reference d h _ _).2, if_pos rfl, hlow]

theorem Wire.selected_reference (la : BitVec 16) :
    (w.selected la).device = .reference { d with page := pageOf la } := by
  have hpage (p : BitVec 4) : (pageOperand p).extractLsb' 0 4 = p := by revert p; decide
  rw [Wire.selected, Wire.exchange_select_reference h, hpage]

theorem Wire.registerRead_reference (la : BitVec 16) (width : Byte) :
    (w.registerRead la width).device = .reference { d with page := pageOf la } :=
  (Wire.read_reference _ _ (Wire.selected_reference h la) _ _).2

/-- A read frame whose bytes stay below wire address 0x7F returns DEV.REG of the current page, lowest address first (R59). -/
theorem Wire.payload_reference (a : Byte) (n : Nat) (hspan : a.toNat + n ≤ 0x7F) :
    payload n (w.reply .read (readFrame a n)).rx =
      memRead w.oracle d.regs (d.page.toNat * Config.pageSize + a.toNat) n := by
  have hrx : (d.answer w.oracle .read (readFrame a n)).1.rx =
      none :: (List.range n).map (d.payloadByte w.oracle a) := by simp [RefDevice.answer, readFrame]
  rw [Wire.reply_reference h]
  apply List.ext_getElem
  · simp [payload]
  · intro i hi _
    have hn : i < n := by simpa [payload] using hi
    have hbyte := d.payloadByte_of_lt w.oracle a i (by omega)
    simp [payload, PartialReply.complete, PartialReply.byte, hrx, hn, hbyte, memRead]

/-- A run of exchanges leaves a reference device with the same registers (R59). -/
theorem Wire.exchanges_reference (fs : List TaggedFrame) :
    ∃ d', (w.exchanges fs).device = .reference d' ∧ d'.regs = d.regs := by
  induction fs generalizing w d with
  | nil => exact ⟨d, h, rfl⟩
  | cons f fs ih =>
    obtain ⟨d', hd', hregs⟩ := ih (Wire.exchange_reference h f.1 f.2)
    exact ⟨d', hd', hregs.trans (d.answer_regs _ _ _)⟩

theorem Wire.devReg_reference (a : Nat) : w.devReg a = Memory.byte w.oracle d.regs a := by
  simp only [Wire.devReg, h]

theorem Wire.devPage_reference : w.devPage = d.page := by
  simp only [Wire.devPage, h]

end reference

/-- Settles O52: a command makes exchanges alone, and none of them writes the registers of the reference device. -/
theorem noCommandWritesDeviceRegisters : Obligations.NoCommandWritesDeviceRegisters := by
  intro d i s t hd h a
  obtain ⟨fs, r, -, rfl⟩ := exec_eq_next h
  obtain ⟨d', hd', hregs⟩ := Wire.exchanges_reference hd fs
  calc (s.wire.exchanges fs).devReg a
      = Memory.byte (s.wire.exchanges fs).oracle d'.regs a := Wire.devReg_reference hd' a
    _ = Memory.byte s.wire.oracle d.regs a := by rw [Wire.exchanges_oracle, hregs]
    _ = s.wire.devReg a := (Wire.devReg_reference hd a).symm

/-- The register bytes at a logical address, read through its page and offset (R51, R59). -/
theorem Wire.registerPayload_reference {w : Wire} {d : RefDevice} (h : w.device = .reference d) (la : BitVec 16)
    (width : Byte) (hspan : (offsetOf la).toNat + width.toNat ≤ 0x7F) :
    w.registerPayload la width = memRead w.oracle d.regs (la.toNat % 0x800) width.toNat := by
  have hoff : (offsetOperand (offsetOf la)).toNat = (offsetOf la).toNat :=
    BitVec.toNat_setWidth_of_le (by decide)
  rw [Wire.registerPayload, registerFrame, Wire.payload_reference (Wire.selected_reference h la) _ _ (hoff ▸ hspan),
    hoff, pageOf_mul_add_offsetOf]
  rfl

/-- Settles O51: the select moves the device to la's page, and the read returns its registers there. -/
theorem referenceDeviceReadsRegisters : Obligations.ReferenceDeviceReadsRegisters := by
  intro d s la width ho hd hw hspan
  refine ⟨_, exec_readRegister_forTests ho (.inr ⟨d, hd⟩) la ((isFieldWidth_iff width).2 hw), ?_, ?_⟩
  · rw [State.answered_lastResponse, Wire.registerPayload_reference hd la width hspan]
  · exact Wire.devPage_reference (Wire.registerRead_reference hd la width)

/-- The shapes of an encoding: none, a write frame, a read frame, or a page select and a read frame (R94, R95, R97). -/
theorem encodeFrames_cases (i : Instr) :
    encodeFrames i = [] ∨ (∃ a v, encodeFrames i = [(.write, writeFrame a v)]) ∨
    (∃ a n, encodeFrames i = [(.read, readFrame a n)]) ∨
    (∃ v a n, encodeFrames i = [(.write, writeFrame 0x7F#8 v), (.read, readFrame a n)]) := by
  cases hill : i.hasIllegalOperand with
  | true => exact .inl (if_pos hill)
  | false =>
    have hframes : encodeFrames i = _ := if_neg (Bool.eq_false_iff.1 hill)
    cases i with
    | split | decodeBe1 | decodeBe2 | decodeBe4 | decodeBeOther => exact .inl hframes
    | selectPage | writeByte => exact .inr (.inl ⟨_, _, hframes⟩)
    | readBytes => exact .inr (.inr (.inl ⟨_, _, hframes⟩))
    | readRegister | readField => exact .inr (.inr (.inr ⟨_, _, _, hframes⟩))

/-- A command's frames set DEV.PAGE as its page-select frame says and change nothing else of the device (R55, R59). -/
theorem Wire.exchanges_encodeFrames_reference {w : Wire} {d : RefDevice} (h : w.device = .reference d) (i : Instr) :
    (∀ v : Byte, (Kind.write, [0x7F#8, v]) ∈ encodeFrames i →
      (w.exchanges (encodeFrames i)).device = .reference { d with page := v.extractLsb' 0 4 }) ∧
    ((∀ v : Byte, (Kind.write, [0x7F#8, v]) ∉ encodeFrames i) →
      (w.exchanges (encodeFrames i)).device = .reference d) := by
  obtain hf | ⟨a, v, hf⟩ | ⟨a, n, hf⟩ | ⟨v, a, n, hf⟩ := encodeFrames_cases i
  · simp [hf, h]
  · rw [hf]
    have hdev : (w.exchanges [(.write, writeFrame a v)]).device = _ := (w.write_reference d h a v).2
    rw [hdev]
    by_cases ha : a = 0x7F#8
    · simp [writeFrame, ha]
    · simp [writeFrame, ha, Ne.symm ha]
  · rw [hf]
    have hdev : (w.exchanges [(.read, readFrame a n)]).device = _ := (w.read_reference d h a n).2
    rw [hdev]
    simp
  · rw [hf]
    have hsel := (w.write_reference d h 0x7F#8 v).2
    have hdev : (w.exchanges [(.write, writeFrame 0x7F#8 v), (.read, readFrame a n)]).device = _ :=
      (Wire.read_reference _ _ hsel a n).2
    rw [hdev]
    simp [writeFrame]

/-- DECODE_BE of as many bytes as its legal width has a value (R104, R190). -/
theorem decodeResponse_bytes {width : Byte} (hw : isFieldWidth width = true) {data : Bytes}
    (hlen : data.length = width.toNat) : ∃ v, decodeResponse width (.ok (.bytes data)) = .ok (.word v) := by
  obtain ⟨v, hv⟩ := (decodeBe_isSome width data hw).2 hlen
  exact ⟨v, by simp only [decodeResponse, hv]⟩

/-- Settles O50: each legal command succeeds, and the frames it sends say where DEV.PAGE ends. -/
theorem referenceDevicePage : Obligations.ReferenceDevicePage := by
  intro d s ho hd
  have ht : s.wire.device.ForTests := .inr ⟨d, hd⟩
  refine ⟨fun page hp => ?_, fun a v => ?_, fun a len hmin hmax => ?_, fun la width hw => ?_, fun i t h => ?_⟩
  · exact ⟨_, exec_selectPage_forTests ho ht (pageTooLarge_eq_false.2 hp), State.answered_lastResponse ..,
      Wire.exchange_select_reference hd page⟩
  · exact ⟨_, exec_writeByte_forTests ho ht a v, State.answered_lastResponse .., (s.wire.write_reference d hd a v).2⟩
  · exact ⟨_, _, exec_readBytes_forTests ho ht a (lengthOutOfRange_eq_false.2 ⟨hmin, hmax⟩),
      State.answered_lastResponse .., payload_length _ _ (by simp), (s.wire.read_reference d hd a len.toNat).2⟩
  · have hwidth := (isFieldWidth_iff width).2 hw
    have hdev := Wire.registerRead_reference hd la width
    rw [pageOf_eq_extract] at hdev
    obtain ⟨v, hv⟩ := decodeResponse_bytes hwidth (s.wire.registerPayload_length la width)
    exact ⟨_, _, _, v, exec_readRegister_forTests ho ht la hwidth, State.answered_lastResponse ..,
      s.wire.registerPayload_length la width, hdev,
      exec_readField_forTests ho ht la hwidth, by rw [State.answered_lastResponse, hv], hdev⟩
  · rw [exec_forTests_wire ho ht h]
    exact Wire.exchanges_encodeFrames_reference hd i

end Sys2Proof.Machine
end

section
/-! PROOFS. The echo stub (R60): the status is the frame's length, and a read frame comes back, so that its filler is the payload. -/
namespace Sys2Proof.Machine

theorem payload_readFrame (a : Byte) (n : Nat) : payload n (readFrame a n) = List.replicate n 0x00#8 := by
  simp [payload, readFrame]

section echo
variable {w : Wire} (h : w.device = .echo)
include h

theorem Wire.event_echo (k : Kind) (tx : Bytes) : w.event k tx = ⟨k, tx, BitVec.ofNat 32 tx.length, tx⟩ := by
  rw [Wire.event, (w.exchange_echo h k tx).1]

theorem Wire.payload_echo (a : Byte) (n : Nat) :
    payload n (w.reply .read (readFrame a n)).rx = List.replicate n 0x00#8 := by
  rw [(w.exchange_echo h .read _).1, payload_readFrame]

theorem Wire.registerPayload_echo (la : BitVec 16) (width : Byte) :
    w.registerPayload la width = List.replicate width.toNat 0x00#8 :=
  Wire.payload_echo (w.exchange_echo h .write _).2 _ _

/-- The two events of READ_REGISTER under the echo stub (R60, R95). -/
theorem Wire.registerRead_hist_echo (la : BitVec 16) (width : Byte) :
    let sel := pageSelectFrame (pageOperand (pageOf la))
    let rd := registerFrame la width
    (w.registerRead la width).hist =
      w.hist ++ [⟨.write, sel, 2#32, sel⟩, ⟨.read, rd, BitVec.ofNat 32 (width.toNat + 1), rd⟩] := by
  intro sel rd
  have hsel : (w.selected la).device = .echo := (w.exchange_echo h .write _).2
  rw [Wire.registerRead, Wire.exchange_hist, Wire.event_echo hsel, Wire.selected, Wire.exchange_hist, Wire.event_echo h,
    List.append_assoc, registerFrame, readFrame_length]
  rfl

end echo

/-- DECODE_BE of zeros is zero (R191 to R193). -/
theorem decodeResponse_zeros {width : Byte} (hw : width = 1#8 ∨ width = 2#8 ∨ width = 4#8) :
    decodeResponse width (.ok (.bytes (List.replicate width.toNat 0x00#8))) = .ok (.word 0#32) := by
  obtain rfl | rfl | rfl := hw
  · decide
  · decide
  · decide

/-- Settles O53: every read succeeds under the stub, and its payload is the filler of its own frame. -/
theorem echoStubReadsZeros : Obligations.EchoStubReadsZeros := by
  intro s ho he
  have ht : s.wire.device.ForTests := .inl he
  refine ⟨fun a len hmin hmax => ?_, fun la width hw => ?_⟩
  · refine ⟨_, exec_readBytes_forTests ho ht a (lengthOutOfRange_eq_false.2 ⟨hmin, hmax⟩), ?_, ?_⟩
    · rw [State.answered_lastResponse, Wire.payload_echo he]
    · rw [State.answered_wire, Wire.exchange_hist, Wire.event_echo he, readFrame_length]
  · have hwidth := (isFieldWidth_iff width).2 hw
    intro sel rd
    refine ⟨_, _, exec_readRegister_forTests ho ht la hwidth, ?_, exec_readField_forTests ho ht la hwidth, ?_, ?_, rfl⟩
    · rw [State.answered_lastResponse, Wire.registerPayload_echo he]
    · rw [State.answered_lastResponse, Wire.registerPayload_echo he, decodeResponse_zeros hw]
    · rw [State.answered_wire, Wire.registerRead_hist_echo he, pageSelectFrame_pageOf, registerFrame_eq]

end Sys2Proof.Machine
end

section
/-! PROOFS. The textual form of R103: a printed command is a mnemonic and its operands' text, read back in three stages, as tokens,
as operands and as a command; a line is that under an optional name. -/
namespace Sys2Proof

/-- A word of the text that stands for one operand (R103): a printed number, or a name. -/
structure IsOperandWord (w : Bytes) (o : Operand) : Prop where
  chars    : w.all isWordChar = true
  nonempty : w ≠ []
  value    : wordOperand w = some o

/-- A printed number begins with a digit, so that it is no name. -/
theorem isOperandWord_encodeByte (b : Byte) : IsOperandWord (encodeByte b) (.number b.toNat) where
  chars    := encodeByte_all b
  nonempty := by simp [encodeByte]
  value    := by
    have hnum : Label.wf (encodeByte b) = false := rfl
    rw [wordOperand, hnum, numberValue_encodeByte]
    rfl

theorem isOperandWord_encodeHalf (h : BitVec 16) : IsOperandWord (encodeHalf h) (.number h.toNat) where
  chars    := encodeHalf_all h
  nonempty := by simp [encodeHalf]
  value    := by
    have hnum : Label.wf (encodeHalf h) = false := rfl
    rw [wordOperand, hnum, numberValue_encodeHalf]
    rfl

theorem isOperandWord_label {n : Label} (h : Label.wf n = true) : IsOperandWord n (.name n) where
  chars := by
    cases n with
    | nil => cases h
    | cons c cs =>
      obtain ⟨hc, hcs⟩ := Bool.and_eq_true_iff.1 h
      simp only [List.all_cons, isWordChar, hc, Bool.true_or, Bool.true_and]
      exact hcs
  nonempty := by
    rintro rfl
    cases h
  value := if_pos h

/-! The tokens of the punctuation that the encoder prints. -/

theorem tokens_lbracket (rest : Bytes) : tokens [] (0x5B#8 :: rest) = (tokens [] rest).map (.lbracket :: ·) := rfl

theorem tokens_equals_space (rest : Bytes) :
    tokens [] (0x3D#8 :: 0x20#8 :: rest) = (tokens [] rest).map (.equals :: ·) := by
  have hspace : tokens [] (0x20#8 :: rest) = (tokens [] rest).map ([] ++ ·) := rfl
  have hequals : tokens [] (0x3D#8 :: 0x20#8 :: rest) = (tokens [] (0x20#8 :: rest)).map (.equals :: ·) := rfl
  rw [hequals, hspace]
  cases tokens [] rest <;> rfl

/-- A word and the closing bracket. -/
theorem tokens_word_rbracket (w : Bytes) (h : w.all isWordChar = true) (hn : w ≠ []) :
    tokens [] (w ++ [0x5D#8]) = .ok [.word w, .rbracket] := by
  have hclose (acc : Bytes) : tokens acc [0x5D#8] = .ok (flushWord acc ++ [.rbracket]) := rfl
  rw [tokens_run w [] _ h, hclose, List.nil_append, flushWord_of_ne_nil w hn]
  rfl

/-- The tokens of a printed byte list after its opening bracket. -/
def itemTokens : Bytes → List Token
  | []           => [.rbracket]
  | [b]          => [.word (encodeByte b), .rbracket]
  | b :: c :: bs => .word (encodeByte b) :: .comma :: itemTokens (c :: bs)

theorem tokens_encodeItems (d : Bytes) : tokens [] (encodeItems d ++ [0x5D#8]) = .ok (itemTokens d) := by
  induction d using encodeItems.induct with
  | case1 => rfl
  | case2 b => exact tokens_word_rbracket _ (encodeByte_all b) (isOperandWord_encodeByte b).nonempty
  | case3 b c bs ih =>
    have htext : encodeItems (b :: c :: bs) ++ [0x5D#8] =
        encodeByte b ++ 0x2C#8 :: 0x20#8 :: (encodeItems (c :: bs) ++ [0x5D#8]) := by
      simp [encodeItems, separator]
    rw [htext, tokens_word_comma _ _ (encodeByte_all b) (isOperandWord_encodeByte b).nonempty, ih]
    rfl

theorem tokens_encodeList (d : Bytes) : tokens [] (encodeList d) = .ok (.lbracket :: itemTokens d) := by
  rw [encodeList, List.cons_append, tokens_lbracket, tokens_encodeItems]
  rfl

theorem tokens_lead (m : Mnemonic) (text : Bytes) :
    tokens [] (m.lead ++ text) = (tokens [] text).map (.word m.spelling :: ·) := by
  have hne : m.spelling ≠ [] := by cases m <;> exact List.cons_ne_nil _ _
  rw [Mnemonic.lead, List.append_assoc, List.singleton_append, tokens_word_space _ _ (spelling_all m) hne]

/-! The operands of those tokens. -/

/-- The reader of a byte list, with the numbers ns before the ones still to come. -/
theorem operands_listItem (b : Byte) (bs : Bytes) (ns : List Nat) (acc : List Operand) :
    operands (.listItem ns) acc (itemTokens (b :: bs)) = some (acc ++ [.list (ns ++ (b :: bs).map BitVec.toNat)]) := by
  induction bs generalizing b ns with
  | nil => simp [itemTokens, operands, numberValue_encodeByte]
  | cons c bs ih => simp [itemTokens, operands, numberValue_encodeByte, ih]

/-- At its first item the reader stands as after a comma, with no number read, but may also close the list. -/
theorem operands_listFirst (d : Bytes) (acc : List Operand) :
    operands .listFirst acc (itemTokens d) = some (acc ++ [.list (d.map BitVec.toNat)]) := by
  cases d with
  | nil => rfl
  | cons b bs =>
    have hfirst : operands .listFirst acc (itemTokens (b :: bs)) = operands (.listItem []) acc (itemTokens (b :: bs)) := by
      cases bs <;> rfl
    rw [hfirst, operands_listItem, List.nil_append]

/-- The text x stands for the operands ops (R103). -/
def OperandsText (x : Bytes) (ops : List Operand) : Prop :=
  ∃ ts, tokens [] x = .ok ts ∧ operands .first [] ts = some ops

section operandsText
variable {w v : Bytes} {o p : Operand} (hw : IsOperandWord w o)
include hw

theorem operandsText_word : OperandsText w [o] :=
  ⟨_, tokens_word w hw.chars hw.nonempty, by simp [operands, hw.value]⟩

theorem tokens_operand_separator (x : Bytes) :
    tokens [] (w ++ separator ++ x) = (tokens [] x).map (.word w :: .comma :: ·) := by
  rw [List.append_assoc]
  exact tokens_word_comma w x hw.chars hw.nonempty

theorem operandsText_pair (hv : IsOperandWord v p) : OperandsText (w ++ separator ++ v) [o, p] := by
  refine ⟨[.word w, .comma, .word v], ?_, by simp [operands, hw.value, hv.value]⟩
  rw [tokens_operand_separator hw, tokens_word v hv.chars hv.nonempty]
  rfl

theorem operandsText_list (d : Bytes) :
    OperandsText (w ++ separator ++ encodeList d) [o, .list (d.map BitVec.toNat)] := by
  refine ⟨.word w :: .comma :: .lbracket :: itemTokens d, ?_, ?_⟩
  · rw [tokens_operand_separator hw, tokens_encodeList]
    rfl
  · simp [operands, hw.value, operands_listFirst]

end operandsText

/-! The command of a mnemonic and its operands, and the line. -/

/-- The text reads as the command c: a mnemonic, and tokens that are its operands; the first of them is no `=`, so that the mnemonic
is not taken for the line's name. -/
def CommandText (text : Bytes) (c : Cmd) : Prop :=
  ∃ m ts, tokens [] text = .ok (.word m :: ts) ∧ ts.head? ≠ some .equals ∧ decodeCmd m ts = .ok c

theorem commandText_of_operands {m : Mnemonic} {x : Bytes} {ops : List Operand} {c : Cmd} (hx : OperandsText x ops)
    (hc : assemble m ops = .ok c) : CommandText (m.lead ++ x) c := by
  obtain ⟨ts, htokens, hops⟩ := hx
  refine ⟨m.spelling, ts, ?_, ?_, ?_⟩
  · rw [tokens_lead, htokens]
    rfl
  · intro hequals
    obtain ⟨ts', rfl⟩ := List.head?_eq_some_iff.1 hequals
    cases hops
  · simp only [decodeCmd, ofSpelling_spelling, hops, hc]

/-- DECODE_BE of a byte list reads as the row its width selects (R190). -/
theorem commandText_decodeBe (w : Byte) (d : Bytes) :
    CommandText (Mnemonic.decodeBe.lead ++ encodeByte w ++ separator ++ encodeList d) (.instr (Instr.decodeBe w d)) := by
  rw [List.append_assoc _ _ separator, List.append_assoc]
  exact commandText_of_operands (operandsText_list (isOperandWord_encodeByte w) d)
    (by simp [assemble, Except.bind, Except.map])

/-- A command of two operand words. -/
theorem commandText_pair {m : Mnemonic} {w v : Bytes} {o p : Operand} {c : Cmd} (hw : IsOperandWord w o)
    (hv : IsOperandWord v p) (hc : assemble m [o, p] = .ok c) : CommandText (m.lead ++ w ++ separator ++ v) c := by
  rw [List.append_assoc _ _ separator, List.append_assoc]
  exact commandText_of_operands (operandsText_pair hw hv) hc

/-- A well-formed record of the row for other widths is the one its width selects (R101, log 18). -/
theorem decodeBe_of_other_wf {w : Byte} {d : Bytes} (h : (Instr.decodeBeOther w d).wf = true) :
    Instr.decodeBe w d = .decodeBeOther w d := by
  have hw : ¬(w = 1#8 ∨ w = 2#8 ∨ w = 4#8) := by
    rw [← isFieldWidth_iff, ← fieldWidths_contains]
    simpa [Instr.wf] using h
  obtain ⟨h1, h2, h4⟩ : w ≠ 1#8 ∧ w ≠ 2#8 ∧ w ≠ 4#8 := by simpa only [not_or] using hw
  simp only [Instr.decodeBe, if_neg h1, if_neg h2, if_neg h4]

theorem commandText_encode {i : Instr} (h : i.wf = true) : CommandText (encode i) (.instr i) := by
  cases i with
  | split la =>
    exact commandText_of_operands (operandsText_word (isOperandWord_encodeHalf la)) (by simp [assemble, Except.map])
  | selectPage page =>
    exact commandText_of_operands (operandsText_word (isOperandWord_encodeByte page)) (by simp [assemble, Except.map])
  | writeByte a v =>
    exact commandText_pair (isOperandWord_encodeByte a) (isOperandWord_encodeByte v)
      (by simp [assemble, Except.bind, Except.map])
  | readBytes a n =>
    exact commandText_pair (isOperandWord_encodeByte a) (isOperandWord_encodeHalf n)
      (by simp [assemble, Except.bind, Except.map])
  | readRegister la w =>
    exact commandText_pair (isOperandWord_encodeHalf la) (isOperandWord_encodeByte w)
      (by simp [assemble, Except.bind, Except.map])
  | readField la w =>
    exact commandText_pair (isOperandWord_encodeHalf la) (isOperandWord_encodeByte w)
      (by simp [assemble, Except.bind, Except.map])
  | decodeBe1 d => exact commandText_decodeBe 1#8 d
  | decodeBe2 d => exact commandText_decodeBe 2#8 d
  | decodeBe4 d => exact commandText_decodeBe 4#8 d
  | decodeBeOther w d =>
    have hrow := commandText_decodeBe w d
    rwa [decodeBe_of_other_wf h] at hrow

theorem commandText_decodeResult (w : Byte) {n : Label} (h : Label.wf n = true) :
    CommandText (encodeCmd (.decodeResult w n)) (.decodeResult w n) :=
  commandText_pair (isOperandWord_encodeByte w) (isOperandWord_label h) (by simp [assemble, Except.map])

theorem decodeLine_of_tokens {text : Bytes} {ts : List Token} (h : tokens [] text = .ok ts) :
    decodeLine text = decodeTokens ts := by
  rw [decodeLine, h]
  rfl

section line
variable {text : Bytes} {c : Cmd} (h : CommandText text c)
include h

theorem decodeLine_of_commandText : decodeLine text = .ok ⟨none, c⟩ := by
  obtain ⟨m, ts, htokens, hequals, hcmd⟩ := h
  have hline : decodeTokens (.word m :: ts) = (decodeCmd m ts).map fun c => ⟨none, c⟩ := by
    match ts, hequals with
    | [], _ | .word _ :: _, _ | .comma :: _, _ | .lbracket :: _, _ | .rbracket :: _, _ => rfl
    | .equals :: _, hequals => exact absurd rfl hequals
  rw [decodeLine_of_tokens htokens, hline, hcmd]
  rfl

theorem decodeLine_of_label {n : Label} (hn : Label.wf n = true) :
    decodeLine (n ++ [0x20#8, 0x3D#8, 0x20#8] ++ text) = .ok ⟨some n, c⟩ := by
  obtain ⟨m, ts, htokens, -, hcmd⟩ := h
  have hword := isOperandWord_label hn
  have hline : tokens [] (n ++ [0x20#8, 0x3D#8, 0x20#8] ++ text) = .ok (.word n :: .equals :: .word m :: ts) := by
    rw [List.append_assoc]
    simp only [List.cons_append, List.nil_append]
    rw [tokens_word_space n _ hword.chars hword.nonempty, tokens_equals_space, htokens]
    rfl
  rw [decodeLine_of_tokens hline, decodeTokens, if_pos hn, hcmd]
  rfl

end line

theorem commandText_encodeCmd {l : Line} (h : l.wf = true) : CommandText (encodeCmd l.cmd) l.cmd := by
  have hcmd := (Bool.and_eq_true_iff.1 h).2
  cases hc : l.cmd with
  | instr i => exact commandText_encode (by simpa only [hc] using hcmd)
  | decodeResult w n => exact commandText_decodeResult w (by simpa only [hc] using hcmd)

/-- Settles O34: the command's text reads as the command, alone or after a name and `=`. -/
theorem textOfLineReadsBack : Obligations.TextOfLineReadsBack := by
  rintro ⟨label, cmd⟩ h
  have htext := commandText_encodeCmd h
  cases label with
  | none => exact decodeLine_of_commandText htext
  | some n => exact decodeLine_of_label htext (Bool.and_eq_true_iff.1 h).1

/-- Settles O33: a command is a line without a name, and `decode` takes the record out of it. -/
theorem textOfCommandReadsBack : Obligations.TextOfCommandReadsBack := by
  intro i h
  rw [decode, decodeLine_of_commandText (commandText_encode h)]
  rfl

end Sys2Proof
end

section
/-! PROOFS. The encoding of frames (R91 to R97, R102): the frame codec, and the command that a run of frames decodes to. -/
namespace Sys2Proof.Machine

theorem decodeFrame_encodeFrame {f : Frame} (h : f.wf = true) : decodeFrame (encodeFrame f) = some f := by
  cases f with
  | write a v => rfl
  | read a len => simp [encodeFrame, readFrame, decodeFrame, h]

/-- What is read is a legal frame, and its encoding is what was read: a read frame's filler is its length in zeros (R92, R102). -/
theorem encodeFrame_of_decodeFrame {x : TaggedFrame} {f : Frame} (h : decodeFrame x = some f) :
    f.wf = true ∧ encodeFrame f = x := by
  match x, h with
  | (.write, [a, v]), h =>
    cases h
    exact ⟨rfl, rfl⟩
  | (.read, a :: filler), h =>
    rw [decodeFrame, Option.ite_none_right_eq_some, Bool.and_eq_true_iff] at h
    obtain ⟨⟨hzeros, hwf⟩, ⟨⟩⟩ := h
    have hfiller : filler = List.replicate filler.length 0x00#8 :=
      List.eq_replicate_iff.2 ⟨rfl, fun b hb => beq_iff_eq.1 (List.all_eq_true.1 hzeros b hb)⟩
    exact ⟨hwf, by rw [encodeFrame, readFrame, ← hfiller]⟩

/-- Settles O30: a legal frame is read back, and what is read is the encoding of a legal frame. -/
theorem frameCodecAgrees : Obligations.FrameCodecAgrees :=
  ⟨fun _ => decodeFrame_encodeFrame, fun _ _ => encodeFrame_of_decodeFrame⟩

/-- Settles O31: the one filler byte of RF(1) is the value byte 0 of a write frame, and the kinds differ. -/
theorem bytesDoNotTellReadFromWrite : Obligations.BytesDoNotTellReadFromWrite :=
  fun _ => ⟨rfl, Kind.noConfusion⟩

/-- Settles O35: the decoders evaluate on the written-out words. -/
theorem writtenOutWordsDecode : Obligations.WrittenOutWordsDecode :=
  ⟨rfl, rfl, rfl, rfl, rfl⟩

/-- A command with frames has legal operands (R98). -/
theorem legal_of_encodeFrames_ne_nil {i : Instr} (h : encodeFrames i ≠ []) : i.hasIllegalOperand = false :=
  Bool.eq_false_iff.2 fun hill => h (if_pos hill)

/-- A legal page index is its own value byte (R94, R97). -/
theorem pageSelectValue_of_le {page : Byte} (h : page ≤ 0x0F#8) : pageSelectValue page = page := by
  revert page
  decide

/-- Page and offset join to the low eleven bits of the address (R51, R52). -/
theorem joinAddr_pageOf_offsetOf (la : BitVec 16) : joinAddr (pageOf la) (offsetOf la) = la &&& 0x07FF#16 := by
  apply BitVec.eq_of_toNat_eq
  rw [joinAddr_toNat, pageOf_mul_add_offsetOf, toNat_and_lowEleven]

theorem pageOperand_le (p : BitVec 4) : pageOperand p ≤ 0x0F#8 := by
  revert p
  decide

theorem offsetOperand_le (o : BitVec 7) : offsetOperand o ≤ 0x7F#8 := by
  revert o
  decide

theorem readFrame_wf {a : Byte} {n : Nat} (hmin : 1 ≤ n) (hmax : n ≤ 255) : (Frame.read a n).wf = true :=
  Bool.and_eq_true_iff.2 ⟨decide_eq_true hmin, decide_eq_true hmax⟩

theorem decodeFrames_write (a v : Byte) :
    decodeFrames [(.write, writeFrame a v)] =
      some (if a = Config.pageSelAddr ∧ v ≤ 0x0F#8 then .selectPage v else .writeByte a v) := rfl

theorem decodeFrames_read {a : Byte} {n : Nat} (h : (Frame.read a n).wf = true) :
    decodeFrames [(.read, readFrame a n)] = some (.readBytes a (BitVec.ofNat 16 n)) := by
  have hframe : decodeFrame (.read, readFrame a n) = _ := decodeFrame_encodeFrame h
  simp only [decodeFrames, hframe]

/-- The frames of READ_REGISTER and READ_FIELD decode to READ_REGISTER of the address below 0x800 (R95, R52, R104). -/
theorem decodeFrames_registerRead (la : BitVec 16) {width : Byte} (hw : isFieldWidth width = true) :
    decodeFrames [(.write, pageSelectFrame (pageOperand (pageOf la))),
        (.read, readFrame (offsetOperand (offsetOf la)) width.toNat)] =
      some (.readRegister (la &&& 0x07FF#16) width) := by
  have hwidth : width.toNat = 1 ∨ width.toNat = 2 ∨ width.toNat = 4 := by
    obtain rfl | rfl | rfl := (isFieldWidth_iff width).1 hw <;> decide
  have hselect : decodeFrame (.write, pageSelectFrame (pageOperand (pageOf la))) =
      some (.write Config.pageSelAddr (pageOperand (pageOf la))) := by
    rw [pageSelectFrame, pageSelectValue_pageOperand]
    rfl
  have hread : decodeFrame (.read, readFrame (offsetOperand (offsetOf la)) width.toNat) = _ :=
    decodeFrame_encodeFrame (readFrame_wf (by omega) (by omega))
  have hpage : (pageOperand (pageOf la)).setWidth 4 = pageOf la := BitVec.setWidth_setWidth_of_le _ (by decide)
  have hoffset : (offsetOperand (offsetOf la)).setWidth 7 = offsetOf la := BitVec.setWidth_setWidth_of_le _ (by decide)
  rw [decodeFrames, hselect, hread]
  dsimp only
  rw [if_pos ⟨rfl, pageOperand_le _, offsetOperand_le _, hwidth⟩, hpage, hoffset, joinAddr_pageOf_offsetOf,
    BitVec.ofNat_toNat, BitVec.setWidth_eq]

/-- Settles O32: each shape of frames decodes as stated for it, and the canonical form names the command answered. -/
theorem framesDecodeToTheirCommand : Obligations.FramesDecodeToTheirCommand := by
  intro i hne
  have hlegal := legal_of_encodeFrames_ne_nil hne
  have hframes : encodeFrames i = _ := if_neg (Bool.eq_false_iff.1 hlegal)
  rw [hframes]
  cases i with
  | split | decodeBe1 | decodeBe2 | decodeBe4 | decodeBeOther => exact absurd hframes hne
  | selectPage page =>
    have hpage : page ≤ 0x0F#8 := pageTooLarge_eq_false.1 hlegal
    dsimp only
    rw [pageSelectFrame, pageSelectValue_of_le hpage, decodeFrames_write, if_pos ⟨rfl, hpage⟩]
    rfl
  | writeByte a v => rfl
  | readBytes a len =>
    obtain ⟨hmin, hmax⟩ := lengthOutOfRange_eq_false.1 hlegal
    dsimp only
    rw [decodeFrames_read (readFrame_wf hmin hmax), BitVec.ofNat_toNat, BitVec.setWidth_eq]
    rfl
  | readRegister la width => exact decodeFrames_registerRead la ((Bool.not_eq_false' _).mp hlegal)
  | readField la width => exact decodeFrames_registerRead la ((Bool.not_eq_false' _).mp hlegal)

end Sys2Proof.Machine
end

section
/-! PROOFS. The invariant (R21, R29, R91, R92, R100, R241 to R244): every step sends frames of the two shapes alone, moves SESS and
the handle together, and leaves the device registers. -/
namespace Sys2Proof.Machine

/-- Every frame of a command's encoding is a write frame or a read frame (R100), command by command in Laws.FrameShapes. -/
theorem encodeFrames_shapes (i : Instr) : ∀ f ∈ encodeFrames i, (decodeFrame f).isSome = true := by
  cases i with
  | split la => exact (Laws.FrameShapes.split la).1
  | selectPage page => exact (Laws.FrameShapes.selectPage page).1
  | writeByte a v => exact (Laws.FrameShapes.writeByte a v).1
  | readBytes a len => exact (Laws.FrameShapes.readBytes a len).1
  | readRegister la width => exact (Laws.FrameShapes.readRegister la width).1
  | decodeBe1 d => exact (Laws.FrameShapes.decodeBe1 d).1
  | decodeBe2 d => exact (Laws.FrameShapes.decodeBe2 d).1
  | decodeBe4 d => exact (Laws.FrameShapes.decodeBe4 d).1
  | decodeBeOther w d => exact (Laws.FrameShapes.decodeBeOther w d).1
  | readField la width => exact (Laws.FrameShapes.readField la width).1

/-- The event of a frame of either shape: its reply has the frame's length, whoever answers (R29). -/
theorem Wire.event_wf (w : Wire) {f : TaggedFrame} (h : (decodeFrame f).isSome = true) : (w.event f.1 f.2).wf = true :=
  Bool.and_eq_true_iff.2 ⟨h, beq_iff_eq.2 (w.reply_rx_length f.1 f.2)⟩

/-- A run of exchanges of such frames adds such events alone. -/
theorem Wire.exchanges_hist_wf {w : Wire} {fs : List TaggedFrame} (hw : ∀ e ∈ w.hist, e.wf = true)
    (hfs : ∀ f ∈ fs, (decodeFrame f).isSome = true) : ∀ e ∈ (w.exchanges fs).hist, e.wf = true := by
  induction fs generalizing w with
  | nil => exact hw
  | cons f fs ih =>
    obtain ⟨hf, hfs⟩ := List.forall_mem_cons.1 hfs
    refine ih (w := w.exchange f.1 f.2) ?_ hfs
    rw [Wire.exchange_hist]
    exact List.forall_mem_append.2 ⟨hw, List.forall_mem_singleton.2 (w.event_wf hf)⟩

/-- A run of exchanges leaves the held registers as they are (R59). -/
@[simp] theorem Wire.exchanges_regs (w : Wire) (fs : List TaggedFrame) : (w.exchanges fs).regs = w.regs := by
  induction fs generalizing w with
  | nil => rfl
  | cons f fs ih => rw [Wire.exchanges_cons, ih, Wire.exchange_regs]

/-- The frames of a step are those of a command's encoding; a session step sends none. -/
theorem step_shapes {s t : State} (h : step s = .next t) :
    ∃ fs, (∀ f ∈ fs, (decodeFrame f).isSome = true) ∧ t.wire = s.wire.exchanges fs := by
  obtain ⟨device, speedHz, mode, debug, rest, -, h⟩ | ⟨rest, -, h⟩ | ⟨rest, -, h⟩ | ⟨l, rest, i, -, -, h⟩ :=
    step_cases s t h
  · obtain ⟨-, -, rfl⟩ := (setConfig_eq_next _ _ t).1 h
    exact ⟨[], List.forall_mem_nil _, rfl⟩
  · obtain ⟨-, -, -, -, hwire⟩ := openSession_frame h
    exact ⟨[], List.forall_mem_nil _, hwire⟩
  · obtain ⟨-, -, -, hwire⟩ := releaseSession_frame h
    exact ⟨[], List.forall_mem_nil _, hwire⟩
  · obtain ⟨fs, r, hprefix, rfl⟩ := exec_eq_next h
    exact ⟨fs, fun f hf => encodeFrames_shapes i f (hprefix.subset hf), rfl⟩

/-- SESS and the handle agree after a step as before it, since they move together (R21, R241 to R244). -/
theorem step_sessionWf {s t : State} (hs : s.sessionWf = true) (h : step s = .next t) : t.sessionWf = true := by
  obtain ⟨hsess, hhandle⟩ | ⟨-, -, -, ⟨hsess, hhandle⟩ | hsess⟩ | ⟨-, -, -, hsess, hhandle⟩ :=
    sessionMovesOnlyByBootAndRelease s t h
  · rwa [State.sessionWf, hsess, hhandle]
  · simp only [State.sessionWf, hsess, hhandle]
  · simp only [State.sessionWf, hsess]
  · simp only [State.sessionWf, hsess, hhandle, Bool.not_false]

/-- Settles O48: the new events are of frames of the two shapes, SESS and the handle move together, the registers stay. -/
theorem everyStepKeepsTheInvariant : Obligations.EveryStepKeepsTheInvariant := by
  rintro s t ⟨hhist, hsession, hregs⟩ h
  obtain ⟨fs, hshapes, hwire⟩ := step_shapes h
  refine ⟨?_, step_sessionWf hsession h, ?_⟩
  · rw [hwire]
    exact Wire.exchanges_hist_wf hhist hshapes
  · rwa [State.regs, hwire, Wire.exchanges_regs]

end Sys2Proof.Machine
end

section
/-! PROOFS. DECODE_BE and READ_FIELD (R101, R104, R190 to R194), and the commands of a caller's line (R8, R103). -/
namespace Sys2Proof.Machine

/-- DECODE_BE of as many bytes as its legal width is their big-endian number (R191 to R194). -/
theorem decodeBe_value {width : Byte} {data : Bytes} (hw : isFieldWidth width = true)
    (hlen : data.length = width.toNat) :
    decodeBe width data = some (.ok (.word (BitVec.ofNat 32 (bigEndianValue data)))) := by
  have hofNat {v : BitVec 32} {n : Nat} (h : v.toNat = n) : v = BitVec.ofNat 32 n := by
    rw [← h, BitVec.ofNat_toNat, BitVec.setWidth_eq]
  obtain rfl | rfl | rfl := (isFieldWidth_iff width).1 hw
  · obtain ⟨a, rfl⟩ := List.length_eq_one_iff.1 hlen
    have hvalue : dec1 a = _ := hofNat (n := bigEndianValue [a]) (by simp [dec1_toNat, bigEndianValue])
    rw [← hvalue]
    rfl
  · obtain ⟨a, b, rfl⟩ := List.length_eq_two.1 hlen
    have hvalue : dec2 a b = _ := hofNat (n := bigEndianValue [a, b]) (by simp [dec2_toNat, bigEndianValue])
    rw [← hvalue]
    rfl
  · obtain ⟨a, b, c, d, rfl⟩ : ∃ a b c d, data = [a, b, c, d] := by
      match data, hlen with
      | [a, b, c, d], _ => exact ⟨a, b, c, d, rfl⟩
    have hvalue : dec4 a b c d = _ := hofNat (n := bigEndianValue [a, b, c, d])
      (by simp [dec4_toNat, bigEndianValue, Nat.add_assoc])
    rw [← hvalue]
    rfl

/-- DECODE_BE of a legal width and data of another length has no response (R101). -/
theorem decodeBe_wrongLength {width : Byte} {data : Bytes} (hw : isFieldWidth width = true)
    (hlen : data.length ≠ width.toNat) : decodeBe width data = none := by
  obtain rfl | rfl | rfl := (isFieldWidth_iff width).1 hw
  · match data, hlen with
    | [_], hlen => exact absurd rfl hlen
    | [], _ | _ :: _ :: _, _ => rfl
  · match data, hlen with
    | [_, _], hlen => exact absurd rfl hlen
    | [], _ | [_], _ | _ :: _ :: _ :: _, _ => rfl
  · match data, hlen with
    | [_, _, _, _], hlen => exact absurd rfl hlen
    | [], _ | [_], _ | [_, _], _ | [_, _, _], _ | _ :: _ :: _ :: _ :: _ :: _, _ => rfl

/-- DECODE_BE has a response exactly for the well-formed records of the row that its width selects (R101, R190). -/
theorem decodeBe_isSome_eq_wf (width : Byte) (data : Bytes) :
    (decodeBe width data).isSome = (Instr.decodeBe width data).wf := by
  rw [Bool.eq_iff_iff, decodeBe_wf]
  cases hw : isFieldWidth width with
  | false => simp [decodeBe_illegal width data hw]
  | true =>
    by_cases hlen : data.length = width.toNat
    · simp [decodeBe_value hw hlen, hlen]
    · simp [decodeBe_wrongLength hw hlen, hlen]

theorem exec_decodeBe_wellFormed {width : Byte} {data : Bytes} (h : (Instr.decodeBe width data).wf = true) :
    ∃ r, decodeBe width data = some r ∧ ∀ s, exec (Instr.decodeBe width data) s = .next (s.answered s.wire r) := by
  rw [← decodeBe_isSome_eq_wf] at h
  obtain ⟨r, hr⟩ := Option.isSome_iff_exists.1 h
  exact ⟨r, hr, fun s => by rw [execDecodeBe_row, hr, ungated_some]⟩

theorem exec_decodeBe_illFormed {width : Byte} {data : Bytes} (h : (Instr.decodeBe width data).wf = false) (s : State) :
    exec (Instr.decodeBe width data) s = .refused .dataLength := by
  rw [← decodeBe_isSome_eq_wf, Option.isSome_eq_false_iff, Option.isNone_iff_eq_none] at h
  rw [execDecodeBe_row, h]
  rfl

/-- Settles O21: data of another length makes each row's record ill formed. -/
theorem decodeRefusesWrongLength : Obligations.DecodeRefusesWrongLength :=
  fun _ s => ⟨fun h => exec_decodeBe_illFormed (width := 1#8) (beq_eq_false_iff_ne.2 h) s,
    fun h => exec_decodeBe_illFormed (width := 2#8) (beq_eq_false_iff_ne.2 h) s,
    fun h => exec_decodeBe_illFormed (width := 4#8) (beq_eq_false_iff_ne.2 h) s⟩

/-! READ_FIELD and its expansion (R104). -/

/-- READ_REGISTER answers as many bytes as its legal width says, or an error (R175). -/
theorem readRegisterBody_response (la : BitVec 16) (width : Byte) (w : Wire) :
    (∃ data, isFieldWidth width = true ∧ data.length = width.toNat ∧
      (readRegisterBody la width w).1 = .ok (.bytes data)) ∨
    (∀ v, (readRegisterBody la width w).1 ≠ .ok v) := by
  obtain ⟨-, hbody⟩ | ⟨-, -, hbody⟩ | ⟨hw, -, hbody⟩ := readRegisterBody_cases la width w
  · exact .inr (by simp [hbody])
  · exact .inr (by simp [hbody])
  · rw [hbody]
    dsimp only [unlessFailed]
    split
    · exact .inr (fun _ => Response.noConfusion)
    · exact .inl ⟨_, hw, payload_length _ _ (by simp), rfl⟩

/-- The second line of READ_FIELD on bytes of the width's length (R104). -/
theorem decodeResponse_value {width : Byte} {data : Bytes} (hw : isFieldWidth width = true)
    (hlen : data.length = width.toNat) :
    decodeResponse width (.ok (.bytes data)) = .ok (.word (BitVec.ofNat 32 (bigEndianValue data))) := by
  simp only [decodeResponse, decodeBe_value hw hlen]

section opened
variable {s : State} (ho : s.sess = .opened) (la : BitVec 16) (width : Byte)
include ho

theorem exec_readRegister_opened : exec (.readRegister la width) s =
    .next (s.answered (readRegisterBody la width s.wire).2 (readRegisterBody la width s.wire).1) := gated_opened _ s ho

/-- READ_FIELD leaves the transport as READ_REGISTER does and decodes its response (R104). -/
theorem exec_readField_opened : exec (.readField la width) s =
    .next (s.answered (readRegisterBody la width s.wire).2
      (decodeResponse width (readRegisterBody la width s.wire).1)) := gated_opened _ s ho

end opened

/-- Settles O14: READ_REGISTER's response is bytes of its width, which READ_FIELD decodes, or an error, which it passes on. -/
theorem readFieldDecodesTheRegister : Obligations.ReadFieldDecodesTheRegister := by
  intro la width s ho
  refine ⟨_, _, exec_readRegister_opened ho la width, ?_⟩
  rw [exec_readField_opened ho]
  obtain ⟨data, hw, hlen, hr⟩ | herror := readRegisterBody_response la width s.wire
  · exact .inl ⟨data, hr, hlen, by rw [hr, decodeResponse_value hw hlen]⟩
  · exact .inr ⟨herror, by rw [decodeResponse_error _ _ herror]⟩

/-- A name bound to bytes stands for them as the data of DECODE_BE (R103). -/
theorem resolve_bound {rs : List Received} {n : Label} {data : Bytes} (h : lookup n rs = some (.ok (.bytes data)))
    (width : Byte) : resolve rs (.decodeResult width n) = .ok (Instr.decodeBe width data) := by
  simp only [resolve, h]

/-- A name bound to an error gives no data (R104, log 25). -/
theorem resolve_error {rs : List Received} {n : Label} {r : Response} (h : lookup n rs = some r)
    (herror : ∀ v, r ≠ .ok v) (width : Byte) : resolve rs (.decodeResult width n) = .error n := by
  cases r with
  | ok v => exact absurd rfl (herror v)
  | invalidArgument | ioError | configError => simp only [resolve, h]

/-- The awaited name means the response just received (R103). -/
theorem lookup_answered {s : State} {n : Label} (h : s.caller.binder = some n) (w : Wire) (r : Response) :
    lookup n (s.answered w r).caller.results = some r := by
  rw [State.answered_results, lookup_snoc, if_pos h]

/-- The first line of READ_FIELD's expansion: READ_REGISTER's response is bound to `t`, and the second line is next (R104). -/
theorem step_readFieldExpansion {s : State} (ho : s.sess = .opened) (la : BitVec 16) (width : Byte) :
    ∃ t, step (s.load ((readFieldExpansion la width).map .line)) = .next t ∧
      t.wire = (readRegisterBody la width s.wire).2 ∧
      t.lastResponse = some (readRegisterBody la width s.wire).1 ∧
      t.caller.pending = [.line ⟨some [0x76#8], .decodeResult width [0x74#8]⟩] ∧
      lookup [0x74#8] t.caller.results = some (readRegisterBody la width s.wire).1 := by
  have hopened (b : Option Label) (steps rest : List CallerStep) : ((s.load steps).issue b rest).sess = .opened := ho
  have hstep := step_line (s.load ((readFieldExpansion la width).map .line)) _ _ _ rfl
    (resolve_instr _ (.readRegister la width))
  rw [exec_readRegister_opened (hopened ..)] at hstep
  exact ⟨_, hstep, rfl, State.answered_lastResponse .., rfl, lookup_answered rfl _ _⟩

/-- Settles O15: the second line decodes the bytes that the first has bound to `t`, or finds an error there and is refused. -/
theorem readFieldMatchesItsExpansion : Obligations.ReadFieldMatchesItsExpansion := by
  intro la width s ho
  obtain ⟨t, hfirst, hwire, hlast, hpending, hbound⟩ := step_readFieldExpansion ho la width
  refine ⟨t, _, hfirst, exec_readField_opened ho la width, ?_⟩
  rw [State.answered_wire, State.answered_lastResponse]
  obtain ⟨data, hw, hlen, hr⟩ | herror := readRegisterBody_response la width s.wire
  · rw [hr] at hbound ⊢
    have hsecond := step_line t _ _ _ hpending (resolve_bound hbound width)
    rw [execDecodeBe_row, decodeBe_value hw hlen, ungated_some] at hsecond
    exact .inl ⟨_, hsecond, hwire, by rw [State.answered_lastResponse, decodeResponse_value hw hlen]⟩
  · rw [decodeResponse_error _ _ herror]
    exact .inr ⟨step_line_unbound t _ _ _ hpending (resolve_error hbound herror width), hwire, hlast⟩

/-! The step of a line (R8, R103). -/

/-- Settles O46: later results of other names do not hide the bytes, and DECODE_BE of them is well formed. -/
theorem namedDataIsTheLastResultOfTheName : Obligations.NamedDataIsTheLastResultOfTheName := by
  intro s width name label data rest before after hpending hresults hafter hlen
  have hbound : lookup name s.caller.results = some (.ok (.bytes data)) := by
    rw [hresults, List.append_cons, lookup_append_other _ _ _ hafter, lookup_snoc, if_pos rfl]
  obtain ⟨r, hr, hexec⟩ := exec_decodeBe_wellFormed ((decodeBe_wf width data).2 hlen)
  have hstep := step_line s _ rest _ hpending (resolve_bound hbound width)
  exact ⟨_, r, hstep.trans (hexec _), rfl, hr, rfl⟩

/-- Settles O44: `step_line`, which asks of a line only that its command is resolved. -/
theorem stepRunsTheDecodedLine : Obligations.StepRunsTheDecodedLine :=
  fun s _ l i rest _ hpending hresolve => step_line s l rest i hpending hresolve

/-- Settles O45: the word's command is the caller's next line, and a command record needs no result of the caller's. -/
theorem stepRunsTheTableWord : Obligations.StepRunsTheTableWord := by
  intro s nbits w i hword
  rw [State.withFetchWord, hword]
  exact step_line (s.withNext i) _ _ i rfl (resolve_instr _ i)

end Sys2Proof.Machine
end

section
/-! PROOFS. How a command ends (R98, R100, R101, R210, R211): which records complete, and, said once, which response goes with which
frames. -/
namespace Sys2Proof.Machine

/-- A command behind the session gate is well formed at every operand value (R101). -/
theorem wf_of_gated {i : Instr} (h : i.gated = true) : i.wf = true := by
  cases i with
  | selectPage | writeByte | readBytes | readRegister | readField => rfl
  | split | decodeBe1 | decodeBe2 | decodeBe4 | decodeBeOther => cases h

theorem exec_of_gated {i : Instr} (h : i.gated = true) : ∃ body, ∀ s, exec i s = gated body s := by
  cases i with
  | selectPage | writeByte | readBytes | readRegister | readField => exact ⟨_, fun _ => rfl⟩
  | split | decodeBe1 | decodeBe2 | decodeBe4 | decodeBeOther => cases h

/-- The row for other widths refuses a legal width, which is none of that row (log 18). -/
theorem exec_decodeBeOther_legalWidth {width : Byte} (hw : isFieldWidth width = true) (data : Bytes) (s : State) :
    exec (.decodeBeOther width data) s = .refused .notThisRow := by
  simp [exec, execDecodeBeOther, widthUnsupported, hw]

theorem exec_decodeBeOther_illegalWidth {width : Byte} (hw : isFieldWidth width = false) (data : Bytes) (s : State) :
    exec (.decodeBeOther width data) s = .next (s.answered s.wire (.invalidArgument .width)) := by
  simp [exec, execDecodeBeOther, widthUnsupported, hw, decodeBe_illegal width data hw, ungated_some]

/-- A command without the gate completes when its record is well formed (R101). -/
theorem exec_of_wf {i : Instr} (hg : i.gated = false) (hwf : i.wf = true) (s : State) :
    ∃ r, exec i s = .next (s.answered s.wire r) := by
  have hrow {width : Byte} {data : Bytes} (h : (Instr.decodeBe width data).wf = true) :
      ∃ r, exec (Instr.decodeBe width data) s = .next (s.answered s.wire r) :=
    (exec_decodeBe_wellFormed h).imp fun _ h => h.2 s
  cases i with
  | split la => exact ⟨_, rfl⟩
  | decodeBe1 d => exact hrow (width := 1#8) hwf
  | decodeBe2 d => exact hrow (width := 2#8) hwf
  | decodeBe4 d => exact hrow (width := 4#8) hwf
  | decodeBeOther w d =>
    rw [Instr.wf, fieldWidths_contains, Bool.not_eq_true'] at hwf
    exact ⟨_, exec_decodeBeOther_illegalWidth hwf d s⟩
  | selectPage | writeByte | readBytes | readRegister | readField => cases hg

/-- An ill-formed record is refused in every state: it is a DECODE_BE row's (R101, D14, log 18). -/
theorem exec_of_illFormed {i : Instr} (hwf : i.wf = false) (s : State) : ∃ q, exec i s = .refused q := by
  cases i with
  | decodeBe1 d => exact ⟨_, exec_decodeBe_illFormed (width := 1#8) hwf s⟩
  | decodeBe2 d => exact ⟨_, exec_decodeBe_illFormed (width := 2#8) hwf s⟩
  | decodeBe4 d => exact ⟨_, exec_decodeBe_illFormed (width := 4#8) hwf s⟩
  | decodeBeOther w d =>
    rw [Instr.wf, fieldWidths_contains, Bool.not_eq_false'] at hwf
    exact ⟨_, exec_decodeBeOther_legalWidth hwf d s⟩
  | split | selectPage | writeByte | readBytes | readRegister | readField => cases hwf

/-- Settles O23: behind the gate SESS decides, without it the record's form. -/
theorem acceptedCommandsAnswerOnce : Obligations.AcceptedCommandsAnswerOnce := by
  intro i s
  cases hg : i.gated with
  | true =>
    obtain ⟨body, hexec⟩ := exec_of_gated hg
    rw [hexec]
    refine ⟨fun ⟨_, ho⟩ => ⟨_, _, gated_opened body s (ho hg)⟩, fun hnot => ⟨_, gated_not_opened body s fun ho => ?_⟩⟩
    exact hnot ⟨wf_of_gated hg, fun _ => ho⟩
  | false =>
    refine ⟨fun ⟨hwf, _⟩ => ⟨s.wire, exec_of_wf hg hwf s⟩, fun hnot => exec_of_illFormed ?_ s⟩
    exact Bool.eq_false_iff.2 fun hwf => hnot ⟨hwf, fun hgated => absurd hgated (Bool.eq_false_iff.1 hg)⟩

/-- READ_REGISTER of a legal width has two frames (R95). -/
theorem encodeFrames_readRegister (la : BitVec 16) {width : Byte} (hw : isFieldWidth width = true) :
    encodeFrames (.readRegister la width) =
      [(.write, pageSelectFrame (pageOperand (pageOf la))), (.read, registerFrame la width)] :=
  if_neg (by simpa [Instr.hasIllegalOperand] using hw)

/-- How a command can end on a transport: an illegal operand is rejected with nothing sent (R98), else it answers Ok after its whole
encoding or IoError after an initial part of it (R100, R212). -/
inductive Ends (i : Instr) (w : Wire) : Response × Wire → Prop where
  | rejected (c : Cause) (hill : i.hasIllegalOperand = true) : Ends i w (.invalidArgument c, w)
  | ok (v : Value) (hlegal : i.hasIllegalOperand = false) : Ends i w (.ok v, w.exchanges (encodeFrames i))
  | failed (fs : List TaggedFrame) (hlegal : i.hasIllegalOperand = false) (hprefix : fs <+: encodeFrames i) :
    Ends i w (.ioError, w.exchanges fs)

section ends
variable {i : Instr} (w : Wire)

/-- A command that has sent its whole encoding, its last exchange failed or not. -/
theorem ends_unlessFailed (hlegal : i.hasIllegalOperand = false) (status : Status) (v : Value) :
    Ends i w (unlessFailed status (.ok v), w.exchanges (encodeFrames i)) := by
  cases hf : exchangeFailed status with
  | true =>
    rw [unlessFailed, hf]
    exact .failed _ hlegal List.prefix_rfl
  | false =>
    rw [unlessFailed, hf]
    exact .ok v hlegal

theorem ends_writeByte (a v : Byte) : Ends (.writeByte a v) w (writeFrameBody a v w) := by
  rw [writeFrameBody_eq]
  exact ends_unlessFailed w rfl _ .unit

theorem ends_selectPage (page : Byte) : Ends (.selectPage page) w (selectPageBody page w) := by
  cases h : pageTooLarge page with
  | true =>
    rw [selectPageBody_illegal page w h]
    exact .rejected _ h
  | false =>
    have hframes : encodeFrames (.selectPage page) = [(.write, pageSelectFrame page)] := if_neg (Bool.eq_false_iff.1 h)
    have hends := ends_unlessFailed (i := .selectPage page) w h
    rw [hframes] at hends
    rw [selectPageBody_legal page w h]
    exact hends _ .unit

theorem ends_readBytes (a : Byte) (len : BitVec 16) : Ends (.readBytes a len) w (readBytesBody a len w) := by
  cases h : lengthOutOfRange len with
  | true =>
    rw [readBytesBody_illegal a len w h]
    exact .rejected _ h
  | false =>
    have hframes : encodeFrames (.readBytes a len) = [(.read, readFrame a len.toNat)] := if_neg (Bool.eq_false_iff.1 h)
    have hends := ends_unlessFailed (i := .readBytes a len) w h
    rw [hframes] at hends
    rw [readBytesBody_legal a len w h]
    exact hends _ _

theorem ends_readRegister (la : BitVec 16) (width : Byte) :
    Ends (.readRegister la width) w (readRegisterBody la width w) := by
  obtain ⟨hw, hbody⟩ | ⟨hw, -, hbody⟩ | ⟨hw, -, hbody⟩ := readRegisterBody_cases la width w
  · rw [hbody]
    exact .rejected _ (by rw [Instr.hasIllegalOperand, hw]; rfl)
  · rw [hbody]
    refine .failed [(.write, pageSelectFrame (pageOperand (pageOf la)))] (by rw [Instr.hasIllegalOperand, hw]; rfl) ?_
    rw [encodeFrames_readRegister la hw]
    exact ⟨_, rfl⟩
  · have hends := ends_unlessFailed (i := .readRegister la width) w (by rw [Instr.hasIllegalOperand, hw]; rfl)
    rw [encodeFrames_readRegister la hw] at hends
    rw [hbody]
    exact hends _ _

/-- READ_FIELD ends as READ_REGISTER does, its bytes decoded (R104). -/
theorem ends_readField (la : BitVec 16) (width : Byte) : Ends (.readField la width) w (readFieldBody la width w) := by
  have hends := ends_readRegister w la width
  have hresponse := readRegisterBody_response la width w
  rw [readFieldBody]
  generalize readRegisterBody la width w = x at hends hresponse
  cases hends with
  | rejected c hill => exact .rejected c hill
  | failed fs hlegal hprefix => exact .failed fs hlegal hprefix
  | ok v hlegal =>
    obtain ⟨data, hw, hlen, hr⟩ | herror := hresponse
    · dsimp only at hr ⊢
      rw [hr, decodeResponse_value hw hlen]
      exact .ok _ hlegal
    · exact absurd rfl (herror v)

/-- A DECODE_BE row answers InvalidArgument exactly for an illegal width (R190). -/
theorem ends_decodeBe {width : Byte} {data : Bytes} {r : Response} (hill : i.hasIllegalOperand = !isFieldWidth width)
    (hframes : encodeFrames i = []) (h : decodeBe width data = some r) : Ends i w (r, w) := by
  cases hw : isFieldWidth width with
  | false =>
    rw [decodeBe_illegal width data hw] at h
    cases h
    exact .rejected _ (by rw [hill, hw]; rfl)
  | true =>
    have hlen : data.length = width.toNat := by
      by_contra hne
      rw [decodeBe_wrongLength hw hne] at h
      cases h
    rw [decodeBe_value hw hlen] at h
    cases h
    have hends := Ends.ok (i := i) (w := w) (.word (BitVec.ofNat 32 (bigEndianValue data))) (by rw [hill, hw]; rfl)
    rwa [hframes] at hends

end ends

/-- Every command that completes ends in one of the three ways. -/
theorem exec_ends {i : Instr} {s t : State} (h : exec i s = .next t) :
    ∃ x, Ends i s.wire x ∧ t = s.answered x.2 x.1 := by
  have hgated {body} (hends : Ends i s.wire (body s.wire)) (h : gated body s = .next t) :
      ∃ x, Ends i s.wire x ∧ t = s.answered x.2 x.1 := ⟨_, hends, ((gated_eq_next body s t).1 h).2⟩
  have hrow {width data} (hill : i.hasIllegalOperand = !isFieldWidth width) (hframes : encodeFrames i = [])
      (h : ungated (decodeBe width data) s = .next t) : ∃ x, Ends i s.wire x ∧ t = s.answered x.2 x.1 := by
    obtain ⟨r, hr, ht⟩ := (ungated_eq_next _ s t).1 h
    exact ⟨(r, s.wire), ends_decodeBe s.wire hill hframes hr, ht⟩
  cases i with
  | split la =>
    cases h
    exact ⟨_, .ok _ rfl, rfl⟩
  | selectPage page => exact hgated (ends_selectPage _ page) h
  | writeByte a v => exact hgated (ends_writeByte _ a v) h
  | readBytes a len => exact hgated (ends_readBytes _ a len) h
  | readRegister la width => exact hgated (ends_readRegister _ la width) h
  | readField la width => exact hgated (ends_readField _ la width) h
  | decodeBe1 d => exact hrow (width := 1#8) rfl rfl h
  | decodeBe2 d => exact hrow (width := 2#8) rfl rfl h
  | decodeBe4 d => exact hrow (width := 4#8) rfl rfl h
  | decodeBeOther w d =>
    cases hw : isFieldWidth w with
    | true =>
      rw [exec_decodeBeOther_legalWidth hw] at h
      cases h
    | false =>
      rw [exec_decodeBeOther_illegalWidth hw] at h
      cases h
      exact ⟨_, .rejected .width (by rw [Instr.hasIllegalOperand, hw]; rfl), rfl⟩

/-- What a state after a run of exchanges has sent beyond s are the frames of the run (R28). -/
theorem newEvents_exchanges_sent (s : State) (fs : List TaggedFrame) (r : Response) :
    (s.newEvents (s.answered (s.wire.exchanges fs) r)).map Event.sent = fs := by
  obtain ⟨new, hhist, hsent⟩ := s.wire.exchanges_hist fs
  rw [State.newEvents, State.answered_wire, hhist, List.drop_left, hsent]

/-- Settles O26: in each of the three ends the frames sent are an initial part of the encoding, in Ok the whole of it. -/
theorem wireTrafficIsTheEncoding : Obligations.WireTrafficIsTheEncoding := by
  intro i s t h
  suffices hsent : ((s.newEvents t).map Event.sent) <+: encodeFrames i ∧
      (∀ v, t.lastResponse = some (.ok v) → (s.newEvents t).map Event.sent = encodeFrames i) by
    refine ⟨hsent.1, hsent.2, ?_⟩
    rw [← List.length_map (f := Event.sent)]
    exact hsent.1.length_le.trans (encodeFrames_length_le i)
  obtain ⟨x, hends, rfl⟩ := exec_ends h
  rw [State.answered_lastResponse]
  cases hends with
  | rejected c hill =>
    have hnone := newEvents_exchanges_sent s [] (.invalidArgument c)
    rw [Wire.exchanges_nil] at hnone
    rw [hnone]
    exact ⟨List.nil_prefix, nofun⟩
  | ok v hlegal =>
    rw [newEvents_exchanges_sent]
    exact ⟨List.prefix_rfl, fun _ _ => rfl⟩
  | failed fs hlegal hprefix =>
    rw [newEvents_exchanges_sent]
    exact ⟨hprefix, nofun⟩

/-- Settles O27: of the three ends the first alone answers InvalidArgument and alone has an illegal operand. -/
theorem illegalOperandsSendNothing : Obligations.IllegalOperandsSendNothing := by
  intro i s t h
  obtain ⟨x, hends, rfl⟩ := exec_ends h
  rw [State.answered_lastResponse]
  cases hends with
  | rejected c hill => exact ⟨⟨fun _ => hill, fun _ => ⟨c, rfl⟩⟩, fun _ => rfl⟩
  | ok v hlegal => simp [hlegal]
  | failed fs hlegal hprefix => simp [hlegal]

end Sys2Proof.Machine
end

section
/-! PROOFS. The page selector (R120): which frame it sends, and how the status decides its response. -/
namespace Sys2Proof.Machine

/-- The failure test written out: a status below 1 is an IoError (R141, R151). -/
theorem unlessFailed_eq_ite (status : Status) (r : Response) :
    unlessFailed status r = if status.toInt < 1 then .ioError else r := by
  simp only [unlessFailed, exchangeFailed, decide_eq_true_eq]

/-- The mask of R120 changes no legal page: its frame is the two bytes of R94. -/
theorem pageSelectFrame_of_le {page : Byte} (h : page ≤ 0x0F#8) : pageSelectFrame page = [0x7F#8, page] := by
  rw [pageSelectFrame, pageSelectValue_of_le h]
  rfl

/-- Settles O4: the page check decides which of the body's two equations holds, and a legal page's frame is [0x7F, page]. -/
theorem selectPageSendsOneFrame : Obligations.SelectPageSendsOneFrame := by
  intro page s ho
  have hexec : exec (.selectPage page) s = _ := gated_opened (selectPageBody page) s ho
  constructor
  · intro hlarge
    rw [hexec, selectPageBody_illegal page s.wire (decide_eq_true hlarge)]
  · intro hpage
    rw [hexec, selectPageBody_legal page s.wire (pageTooLarge_eq_false.2 hpage), pageSelectFrame_of_le hpage,
      unlessFailed_eq_ite]

end Sys2Proof.Machine
end

section
/-! PROOFS. The frame primitives (R140 to R152): what WRITE_BYTE and READ_BYTES send and answer, and which receive bytes reach no
response: all of a write's, and the echo slot of a read's. -/
namespace Sys2Proof.Machine

section opened
variable {s : State} (ho : s.sess = .opened)
include ho

theorem exec_writeByte_opened (a v : Byte) : exec (.writeByte a v) s =
    .next (s.answered (s.wire.exchange .write [a, v]) (unlessFailed (s.wire.reply .write [a, v]).status (.ok .unit))) := by
  have hexec : exec (.writeByte a v) s = _ := gated_opened (writeFrameBody a v) s ho
  rw [hexec, writeFrameBody_eq]
  rfl

theorem exec_readBytes_opened (a : Byte) (len : BitVec 16) : exec (.readBytes a len) s =
    .next (s.answered (readBytesBody a len s.wire).2 (readBytesBody a len s.wire).1) := gated_opened _ s ho

end opened

/-- Settles O5: the frame is the two bytes of R91, and the failure test is the status test. -/
theorem writeByteSendsOneFrame : Obligations.WriteByteSendsOneFrame := by
  intro addr value s ho
  rw [exec_writeByte_opened ho, unlessFailed_eq_ite]

/-- Settles O6: a page index is its own value byte, so that both bodies write the same frame behind the same gate. -/
theorem writeByteToPageSelectIsSelectPage : Obligations.WriteByteToPageSelectIsSelectPage := by
  intro page s hpage
  have hbody : selectPageBody page = writeFrameBody 0x7F#8 page := by
    funext w
    rw [selectPageBody_legal page w (pageTooLarge_eq_false.2 hpage), writeFrameBody_eq, pageSelectFrame,
      pageSelectValue_of_le hpage]
  exact (congrArg (gated · s) hbody).symm

/-! READ_BYTES (R150, R152). -/

/-- A length is out of range exactly when it is 0 or above 255 (R98). -/
theorem lengthOutOfRange_iff {len : BitVec 16} : lengthOutOfRange len = true ↔ len = 0#16 ∨ 255#16 < len := by
  rw [lengthOutOfRange, Bool.or_eq_true, decide_eq_true_eq, decide_eq_true_eq,
    BitVec.lt_one_iff (by decide)]

/-- The receive bytes of a read hold nothing after the payload (R29, R93). -/
theorem payload_reply (w : Wire) (a : Byte) (n : Nat) :
    payload n (w.reply .read (readFrame a n)).rx = (w.reply .read (readFrame a n)).rx.drop 1 :=
  List.take_of_length_le (by simp)

/-- Settles O8: the length check decides which of the body's two equations holds, and rx has the frame's length. -/
theorem readBytesReturnsPayload : Obligations.ReadBytesReturnsPayload := by
  intro addr len s ho
  rw [exec_readBytes_opened ho]
  refine ⟨fun hlen => ?_, fun hmin hmax => ⟨?_, ?_⟩⟩
  · rw [readBytesBody_illegal addr len s.wire (lengthOutOfRange_iff.2 hlen)]
  · rw [readBytesBody_legal addr len s.wire (lengthOutOfRange_eq_false.2 ⟨hmin, hmax⟩), unlessFailed_eq_ite, payload_reply]
    rfl
  · rw [List.length_drop, Wire.reply_rx_length, List.length_cons, List.length_replicate, Nat.add_sub_cancel]

/-- READ_BYTES's response is made of the status and the bytes after the echo slot (R152, D10). -/
theorem readBytesBody_response_congr {w₁ w₂ : Wire} (a : Byte) (len : BitVec 16)
    (hstatus : (w₁.reply .read (readFrame a len.toNat)).status = (w₂.reply .read (readFrame a len.toNat)).status)
    (hrx : (w₁.reply .read (readFrame a len.toNat)).rx.drop 1 = (w₂.reply .read (readFrame a len.toNat)).rx.drop 1) :
    (readBytesBody a len w₁).1 = (readBytesBody a len w₂).1 := by
  cases hlen : lengthOutOfRange len with
  | true => rw [readBytesBody_illegal a len w₁ hlen, readBytesBody_illegal a len w₂ hlen]
  | false => rw [readBytesBody_legal a len w₁ hlen, readBytesBody_legal a len w₂ hlen, payload, payload, hstatus, hrx]

/-- Settles O9: each response is the body's, which does not read the echo slot. -/
theorem echoSlotIgnored : Obligations.EchoSlotIgnored := by
  intro addr len s₁ s₂ t₁ t₂ hstatus hrx h₁ h₂
  obtain ⟨-, rfl⟩ := (gated_eq_next (readBytesBody addr len) s₁ t₁).1 h₁
  obtain ⟨-, rfl⟩ := (gated_eq_next (readBytesBody addr len) s₂ t₂).1 h₂
  rw [State.answered_lastResponse, State.answered_lastResponse, readBytesBody_response_congr addr len hstatus hrx]

/-! The receive bytes of a write (R142). -/

/-- An exchange's event is its frame and its reply. -/
theorem Wire.event_congr {w₁ w₂ : Wire} {k : Kind} {tx : Bytes} (h : w₁.reply k tx = w₂.reply k tx) :
    w₁.event k tx = w₂.event k tx := by rw [Wire.event, Wire.event, h]

/-- The status that the select of la's page reports (R176). -/
def Wire.selectStatus (w : Wire) (la : BitVec 16) : Status :=
  (w.reply .write (pageSelectFrame (pageOperand (pageOf la)))).status

/-- The reply to the read after the select of la's page (R175). -/
def Wire.registerReply (w : Wire) (la : BitVec 16) (width : Byte) : Reply :=
  (w.selected la).reply .read (registerFrame la width)

/-- READ_REGISTER of a legal width: the select's status alone decides whether the read is made (R175, R176). -/
theorem readRegisterBody_legal (la : BitVec 16) {width : Byte} (hw : isFieldWidth width = true) (w : Wire) :
    readRegisterBody la width w =
      if exchangeFailed (w.selectStatus la) then (.ioError, w.selected la)
      else
        (unlessFailed (w.registerReply la width).status (.ok (.bytes (payload width.toNat (w.registerReply la width).rx))),
          w.registerRead la width) := by
  split
  next hf => exact readRegisterBody_select_failed la width w hw hf
  next hf =>
    rw [readRegisterBody_selected la width w hw (Bool.eq_false_iff.2 hf),
      readBytesBody_legal _ _ _ (lengthOperand_legal width hw), lengthOperand_toNat]
    rfl

/-- READ_REGISTER on two transports whose selects report one status and whose reads after it, if made, get one reply: the responses
agree, and so do the events after the select's. -/
theorem readRegisterBody_select_congr {w₁ w₂ : Wire} (la : BitVec 16) {width : Byte} (hw : isFieldWidth width = true)
    (hstatus : w₁.selectStatus la = w₂.selectStatus la)
    (hread : ¬ exchangeFailed (w₁.selectStatus la) = true → w₁.registerReply la width = w₂.registerReply la width) :
    (readRegisterBody la width w₁).1 = (readRegisterBody la width w₂).1 ∧
    ∃ after, (readRegisterBody la width w₁).2.hist = (w₁.selected la).hist ++ after ∧
      (readRegisterBody la width w₂).2.hist = (w₂.selected la).hist ++ after := by
  rw [readRegisterBody_legal la hw w₁, readRegisterBody_legal la hw w₂, ← hstatus]
  split
  next => exact ⟨rfl, [], (List.append_nil _).symm, (List.append_nil _).symm⟩
  next hf =>
    have hevent : (w₁.selected la).event .read (registerFrame la width) =
        (w₂.selected la).event .read (registerFrame la width) := Wire.event_congr (hread hf)
    exact ⟨by rw [hread hf], _, rfl, by rw [hevent]; rfl⟩

/-- Settles O7: WRITE_BYTE's response is made of the status alone, SELECT_PAGE is WRITE_BYTE to 0x7F, and of its
select's reply READ_REGISTER uses the status alone. -/
theorem writeReceiveBytesDiscarded : Obligations.WriteReceiveBytesDiscarded := by
  intro s₁ s₂ ho₁ ho₂
  refine ⟨?writeByte, ?selectPage, ?register⟩
  case writeByte =>
    intro addr value hstatus
    exact ⟨_, _, _, exec_writeByte_opened ho₁ addr value, hstatus ▸ exec_writeByte_opened ho₂ addr value, rfl, rfl⟩
  case selectPage =>
    intro page hpage hstatus
    rw [← writeByteToPageSelectIsSelectPage page s₁ hpage, ← writeByteToPageSelectIsSelectPage page s₂ hpage]
    exact ⟨_, _, _, exec_writeByte_opened ho₁ _ page, hstatus ▸ exec_writeByte_opened ho₂ _ page, rfl, rfl⟩
  case register =>
    intro la width hwidth
    rw [← pageSelectFrame_pageOf, ← registerFrame_eq]
    intro sel rd hstatus hread
    obtain ⟨hresponse, after, hhist₁, hhist₂⟩ :=
      readRegisterBody_select_congr la ((isFieldWidth_iff width).2 hwidth) hstatus
        fun hf => hread (Int.not_lt.1 (mt decide_eq_true hf))
    exact ⟨_, _, _, _, after, exec_readRegister_opened ho₁ la width, hresponse ▸ exec_readRegister_opened ho₂ la width,
      exec_readField_opened ho₁ la width, hresponse ▸ exec_readField_opened ho₂ la width,
      hhist₁.trans (List.append_assoc ..), hhist₂.trans (List.append_assoc ..)⟩

end Sys2Proof.Machine
end

section
/-! PROOFS. The register reader (R170 to R176): SPLIT's page and offset are bit fields of the address, and READ_REGISTER checks the
width, selects the page and reads at the offset. -/
namespace Sys2Proof.Machine

/-- Settles O1: SPLIT answers page and offset behind no gate, and the shift and mask of R50 read off the bit fields. -/
theorem splitReturnsPageAndOffset : Obligations.SplitReturnsPageAndOffset := by
  intro la s
  have hexec : exec (.split la) s = .next (s.answered s.wire (.ok (.pair (pageOf la) (offsetOf la)))) := rfl
  rw [hexec, pageOf_eq_extract, offsetOf_eq_extract]

/-- READ_REGISTER of a legal width whose select succeeds answers the read's status and bytes (R175). -/
theorem exec_readRegister_selected {s : State} (ho : s.sess = .opened) (la : BitVec 16) {width : Byte}
    (hw : isFieldWidth width = true) (hf : exchangeFailed (s.wire.selectStatus la) = false) :
    exec (.readRegister la width) s =
      .next (s.answered (s.wire.registerRead la width)
        (unlessFailed (s.wire.registerReply la width).status
          (.ok (.bytes ((s.wire.registerReply la width).rx.drop 1))))) := by
  rw [exec_readRegister_opened ho, readRegisterBody_legal la hw, if_neg (Bool.eq_false_iff.1 hf),
    Wire.registerReply, registerFrame, payload_reply]

/-- READ_REGISTER of a legal width whose select fails answers an IoError after that one exchange (R176). -/
theorem exec_readRegister_select_failed {s : State} (ho : s.sess = .opened) (la : BitVec 16) {width : Byte}
    (hw : isFieldWidth width = true) (hf : exchangeFailed (s.wire.selectStatus la) = true) :
    exec (.readRegister la width) s = .next (s.answered (s.wire.selected la) .ioError) := by
  rw [exec_readRegister_opened ho, readRegisterBody_legal la hw, if_pos hf]

/-- Settles O10: the width check, and then the select's status, decide which of the body's three equations holds. -/
theorem readRegisterSelectsThenReads : Obligations.ReadRegisterSelectsThenReads := by
  intro la width s ho
  constructor
  · intro hwidth
    have hw : isFieldWidth width = false := Bool.eq_false_iff.2 (mt (isFieldWidth_iff width).1 hwidth)
    rw [exec_readRegister_opened ho, readRegisterBody_illegal la width s.wire hw]
  · intro hwidth
    have hw : isFieldWidth width = true := (isFieldWidth_iff width).2 hwidth
    rw [← pageSelectFrame_pageOf, ← registerFrame_eq]
    intro sel rd w₁
    constructor
    · intro hfailed
      exact exec_readRegister_select_failed ho la hw (decide_eq_true hfailed)
    · intro hselected
      rw [exec_readRegister_selected ho la hw (exchangeFailed_eq_false hselected), unlessFailed_eq_ite]
      rfl

end Sys2Proof.Machine
end

section
/-! PROOFS. DECODE_BE's value (R190 to R195): a big-endian number is its bytes read as base 256 digits, and each row of the command
answers by its own formula. -/
namespace Sys2Proof

/-- The bytes' values, the least significant first, as `Nat.ofDigits` lists digits. -/
def digitsOf (bs : Bytes) : List Nat := (bs.map BitVec.toNat).reverse

section digits
variable (bs : Bytes)

@[simp] theorem digitsOf_length : (digitsOf bs).length = bs.length := by simp [digitsOf]

theorem digitsOf_lt : ∀ d ∈ digitsOf bs, d < 256 := by
  intro d hd
  obtain ⟨b, -, rfl⟩ := List.mem_map.1 (List.mem_reverse.1 hd)
  exact b.isLt

theorem digitsOf_getElem {i : Nat} (hi : i < bs.length) :
    (digitsOf bs)[bs.length - 1 - i]'(by rw [digitsOf_length]; omega) = bs[i].toNat := by
  have hindex : bs.length - 1 - (bs.length - 1 - i) = i := by omega
  simp only [digitsOf, List.getElem_reverse, List.getElem_map, List.length_map, hindex]

/-- A big-endian number is the number with these digits in base 256 (R194). -/
theorem bigEndianValue_eq_ofDigits : bigEndianValue bs = Nat.ofDigits 256 (digitsOf bs) := by
  induction bs with
  | nil => rfl
  | cons b bs ih =>
    have hcons : digitsOf (b :: bs) = digitsOf bs ++ [b.toNat] := by simp [digitsOf]
    rw [hcons, Nat.ofDigits_append, Nat.ofDigits_singleton, digitsOf_length, ← ih, bigEndianValue,
      Nat.mul_comm, Nat.add_comm]

/-- R194's bound: n bytes make a number below 256^n. -/
theorem bigEndianValue_lt : bigEndianValue bs < 256 ^ bs.length := by
  rw [bigEndianValue_eq_ofDigits, ← digitsOf_length]
  exact Nat.ofDigits_lt_base_pow_length (by decide) (digitsOf_lt bs)

/-- The digit of weight 256^(n-1-i) is the byte at i (R195). -/
theorem bigEndianValue_digit {i : Nat} (hi : i < bs.length) :
    bigEndianValue bs / 256 ^ (bs.length - 1 - i) % 256 = bs[i].toNat := by
  have hdigit : bs.length - 1 - i < (digitsOf bs).length := by rw [digitsOf_length]; omega
  rw [bigEndianValue_eq_ofDigits, Nat.ofDigits_div_pow_eq_ofDigits_drop _ (by decide) _ (digitsOf_lt bs),
    List.drop_eq_getElem_cons hdigit, Nat.ofDigits_cons, Nat.add_mul_mod_self_left, digitsOf_getElem bs hi,
    Nat.mod_eq_of_lt bs[i].isLt]

end digits

/-- A word that holds a big-endian number has the bytes as its octets, from the top one down (R195). -/
theorem extract_octets {v : BitVec 32} {bs : Bytes} (hv : v.toNat = bigEndianValue bs) :
    bs = (List.range bs.length).map fun i => v.extractLsb' (8 * (bs.length - 1 - i)) 8 := by
  refine List.ext_getElem (by simp) fun i hi _ => BitVec.eq_of_toNat_eq ?_
  rw [List.getElem_map, List.getElem_range, BitVec.extractLsb'_toNat, Nat.shiftRight_eq_div_pow, Nat.pow_mul, hv]
  exact (bigEndianValue_digit bs hi).symm

end Sys2Proof

namespace Sys2Proof.Machine

/-- A DECODE_BE that has a response delivers it in every state and leaves the transport (R190, R210). -/
theorem exec_decodeBe_of_some {width : Byte} {data : Bytes} {r : Response} (h : decodeBe width data = some r) (s : State) :
    exec (Instr.decodeBe width data) s = .next (s.answered s.wire r) := by
  rw [execDecodeBe_row, h, ungated_some]

/-- Settles O20: the response is the big-endian number, which fits 32 bits at every legal width, and its digits are the bytes. -/
theorem decodedValueIsBigEndianSum : Obligations.DecodedValueIsBigEndianSum := by
  intro width data s hwidth hlen
  have hw : isFieldWidth width = true := (isFieldWidth_iff width).2 hwidth
  have hbound : bigEndianValue data < 256 ^ width.toNat := hlen ▸ bigEndianValue_lt data
  have hword : 256 ^ width.toNat ≤ 2 ^ 32 := by obtain rfl | rfl | rfl := hwidth <;> decide
  have hvalue : (BitVec.ofNat 32 (bigEndianValue data)).toNat = bigEndianValue data :=
    (BitVec.toNat_ofNat ..).trans (Nat.mod_eq_of_lt (hbound.trans_le hword))
  exact ⟨_, exec_decodeBe_of_some (decodeBe_value hw hlen) s, hvalue, hvalue.trans_lt hbound,
    hlen ▸ extract_octets hvalue⟩

/-- Settles O16: the one byte's number is below 2^8. -/
theorem decodeOneByte : Obligations.DecodeOneByte :=
  fun d0 s => ⟨exec_decodeBe_of_some (width := 1#8) (data := [d0]) rfl s,
    (dec1_toNat d0).trans_le (Nat.le_of_lt_succ d0.isLt)⟩

/-- Settles O17: the two bytes lie in a 16-bit word, whose number is below 2^16. -/
theorem decodeTwoBytes : Obligations.DecodeTwoBytes := by
  intro d0 d1 s
  refine ⟨exec_decodeBe_of_some (width := 2#8) (data := [d0, d1]) rfl s, ?_⟩
  rw [BitVec.toNat_setWidth_of_le (by decide)]
  exact Nat.le_of_lt_succ (BitVec.isLt _)

/-- Settles O18: the row's formula is R193's. -/
theorem decodeFourBytes : Obligations.DecodeFourBytes :=
  fun d0 d1 d2 d3 s => exec_decodeBe_of_some (width := 4#8) (data := [d0, d1, d2, d3]) rfl s

/-- Settles O19: the row for other widths answers its error before it looks at the data. -/
theorem decodeRejectsOtherWidths : Obligations.DecodeRejectsOtherWidths :=
  fun width data s hwidth =>
    exec_decodeBeOther_illegalWidth (Bool.eq_false_iff.2 (mt (isFieldWidth_iff width).1 hwidth)) data s

end Sys2Proof.Machine
end

section
/-! PROOFS. Errors are precise (R141, R151, R176, R212, R213, R215): what a command's response says of the exchanges it made. -/
namespace Sys2Proof.Machine

theorem one_le_of_exchangeFailed_eq_false {status : Status} (h : exchangeFailed status = false) : 1 ≤ status.toInt :=
  Int.not_lt.1 (of_decide_eq_false h)

/-- A response and the exchanges made for it: Ok when all succeeded, IoError when the last failed after all before it succeeded,
InvalidArgument when there was none; ConfigError is no command's (R212, R213). -/
inductive Precise : Response → List Event → Prop where
  | ok (v : Value) (events : List Event) (hall : ∀ x ∈ events, 1 ≤ x.status.toInt) : Precise (.ok v) events
  | invalidArgument (c : Cause) : Precise (.invalidArgument c) []
  | ioError (before : List Event) (e : Event) (hlast : e.status.toInt < 1) (hbefore : ∀ x ∈ before, 1 ≤ x.status.toInt) :
    Precise .ioError (before ++ [e])

/-- Successful exchanges and then one whose status decides the response (R141, R151). -/
theorem precise_unlessFailed {before : List Event} (hbefore : ∀ x ∈ before, 1 ≤ x.status.toInt) (e : Event) (v : Value) :
    Precise (unlessFailed e.status (.ok v)) (before ++ [e]) := by
  rw [unlessFailed_eq_ite]
  split
  next hlast => exact .ioError before e hlast hbefore
  next hlast =>
    refine .ok v _ (List.forall_mem_append.2 ⟨hbefore, List.forall_mem_singleton.2 ?_⟩)
    exact Int.not_lt.1 hlast

/-- A DECODE_BE that has a response answers Ok or InvalidArgument, without an exchange (R190). -/
theorem precise_decodeBe {width : Byte} {data : Bytes} {r : Response} (h : decodeBe width data = some r) : Precise r [] := by
  cases hw : isFieldWidth width with
  | false =>
    rw [decodeBe_illegal width data hw] at h
    cases h
    exact .invalidArgument _
  | true =>
    by_cases hlen : data.length = width.toNat
    · rw [decodeBe_value hw hlen] at h
      cases h
      exact .ok _ _ nofun
    · rw [decodeBe_wrongLength hw hlen] at h
      cases h

/-- A response and the transport a body leaves, precise about the events it has appended to HIST. -/
def PreciseFrom (w : Wire) (x : Response × Wire) : Prop := ∃ events, x.2.hist = w.hist ++ events ∧ Precise x.1 events

section preciseFrom
variable (w : Wire)

theorem preciseFrom_unsent {r : Response} (h : Precise r []) : PreciseFrom w (r, w) := ⟨[], (List.append_nil _).symm, h⟩

theorem preciseFrom_exchange (k : Kind) (tx : Bytes) (v : Value) :
    PreciseFrom w (unlessFailed (w.reply k tx).status (.ok v), w.exchange k tx) :=
  ⟨[w.event k tx], rfl, precise_unlessFailed (List.forall_mem_nil _) (w.event k tx) v⟩

theorem preciseFrom_writeFrameBody (a v : Byte) : PreciseFrom w (writeFrameBody a v w) := by
  rw [writeFrameBody_eq]
  exact preciseFrom_exchange w ..

theorem preciseFrom_selectPageBody (page : Byte) : PreciseFrom w (selectPageBody page w) := by
  cases h : pageTooLarge page with
  | true =>
    rw [selectPageBody_illegal page w h]
    exact preciseFrom_unsent w (.invalidArgument _)
  | false =>
    rw [selectPageBody_legal page w h]
    exact preciseFrom_exchange w ..

theorem preciseFrom_readBytesBody (a : Byte) (len : BitVec 16) : PreciseFrom w (readBytesBody a len w) := by
  cases h : lengthOutOfRange len with
  | true =>
    rw [readBytesBody_illegal a len w h]
    exact preciseFrom_unsent w (.invalidArgument _)
  | false =>
    rw [readBytesBody_legal a len w h]
    exact preciseFrom_exchange w ..

/-- The read is made only after a select that succeeded, so it alone decides the response (R175, R176). -/
theorem preciseFrom_readRegisterBody (la : BitVec 16) (width : Byte) : PreciseFrom w (readRegisterBody la width w) := by
  have hcases := readRegisterBody_cases la width w
  extract_lets sel rd w₁ at hcases
  obtain ⟨-, hbody⟩ | ⟨-, hfailed, hbody⟩ | ⟨-, haccepted, hbody⟩ := hcases
  · rw [hbody]
    exact preciseFrom_unsent w (.invalidArgument _)
  · rw [hbody]
    exact ⟨[w.event .write sel], rfl, .ioError [] _ (of_decide_eq_true hfailed) (List.forall_mem_nil _)⟩
  · have hselect : ∀ x ∈ [w.event .write sel], 1 ≤ x.status.toInt :=
      List.forall_mem_singleton.2 (one_le_of_exchangeFailed_eq_false haccepted)
    rw [hbody]
    exact ⟨_, List.append_assoc .., precise_unlessFailed hselect (w₁.event .read rd) _⟩

/-- READ_FIELD makes READ_REGISTER's exchanges, and decoding neither hides nor raises an error (R104). -/
theorem preciseFrom_readFieldBody (la : BitVec 16) (width : Byte) : PreciseFrom w (readFieldBody la width w) := by
  obtain ⟨events, hhist, hprecise⟩ := preciseFrom_readRegisterBody w la width
  refine ⟨events, hhist, ?_⟩
  dsimp only [readFieldBody]
  obtain ⟨data, hw, hlen, hr⟩ | herror := readRegisterBody_response la width w
  · rw [hr] at hprecise
    cases hprecise with
    | ok _ _ hall =>
      rw [hr, decodeResponse_value hw hlen]
      exact .ok _ _ hall
  · rwa [decodeResponse_error width _ herror]

end preciseFrom

/-- Every command that completes answers precisely for the events it has appended to HIST. -/
theorem exec_precise {i : Instr} {s t : State} (h : exec i s = .next t) :
    ∃ x, PreciseFrom s.wire x ∧ t = s.answered x.2 x.1 := by
  have hgated {body} (hbody : PreciseFrom s.wire (body s.wire)) (h : gated body s = .next t) :
      ∃ x, PreciseFrom s.wire x ∧ t = s.answered x.2 x.1 := ⟨_, hbody, ((gated_eq_next body s t).1 h).2⟩
  have hrow {width data} (h : ungated (decodeBe width data) s = .next t) :
      ∃ x, PreciseFrom s.wire x ∧ t = s.answered x.2 x.1 := by
    obtain ⟨r, hr, ht⟩ := (ungated_eq_next _ s t).1 h
    exact ⟨(r, s.wire), preciseFrom_unsent _ (precise_decodeBe hr), ht⟩
  cases i with
  | split la =>
    cases h
    exact ⟨(_, s.wire), preciseFrom_unsent _ (.ok _ _ (List.forall_mem_nil _)), rfl⟩
  | selectPage page => exact hgated (preciseFrom_selectPageBody _ page) h
  | writeByte a v => exact hgated (preciseFrom_writeFrameBody _ a v) h
  | readBytes a len => exact hgated (preciseFrom_readBytesBody _ a len) h
  | readRegister la width => exact hgated (preciseFrom_readRegisterBody _ la width) h
  | readField la width => exact hgated (preciseFrom_readFieldBody _ la width) h
  | decodeBe1 d => exact hrow (width := 1#8) h
  | decodeBe2 d => exact hrow (width := 2#8) h
  | decodeBe4 d => exact hrow (width := 4#8) h
  | decodeBeOther w d =>
    cases hw : isFieldWidth w with
    | true =>
      rw [exec_decodeBeOther_legalWidth hw] at h
      cases h
    | false =>
      rw [exec_decodeBeOther_illegalWidth hw] at h
      cases h
      exact ⟨(_, s.wire), preciseFrom_unsent _ (.invalidArgument .width), rfl⟩

/-- Settles O28: the new events are the command's exchanges, and its response is precise about them. -/
theorem errorsArePrecise : Obligations.ErrorsArePrecise := by
  intro i s t h
  obtain ⟨⟨r, w⟩, ⟨events, hhist, hprecise⟩, rfl⟩ := exec_precise h
  have hnew : s.newEvents (s.answered w r) = events := by
    rw [State.newEvents, State.answered_wire, hhist, List.drop_left]
  rw [State.answered_lastResponse, hnew]
  cases hprecise with
  | ok v _ hall => exact ⟨nofun, fun _ _ => hall, nofun⟩
  | invalidArgument c => exact ⟨nofun, nofun, nofun⟩
  | ioError before e hlast hbefore => exact ⟨fun _ => ⟨before, e, rfl, hlast, hbefore⟩, nofun, nofun⟩

end Sys2Proof.Machine
end

section
/-! PROOFS. The session steps (R241 to R246): what open, release and setting CFG do, and when they are refused. -/
namespace Sys2Proof.Machine

/-- Settles O37: open asks the transport, and once it has opened, the two cases of configure end the step. -/
theorem openThenConfigure : Obligations.OpenThenConfigure := by
  intro s rest hclosed hp opens accepts
  have hopens : (s.issue none rest).wire.opensDevice (s.issue none rest).cfg = opens := rfl
  have haccepts : s.wire.acceptsSettings s.cfg = accepts := rfl
  clear_value opens accepts
  rw [step_openSession s rest hp, openSession_eq_next]
  refine ⟨hclosed, ?_⟩
  cases opens with
  | false => exact .inl ⟨hopens, rfl⟩
  | true =>
    refine .inr ⟨hopens, ?_⟩
    obtain ⟨hanswer, hconfigure⟩ | ⟨hanswer, hconfigure⟩ :=
      State.configure_cases { s.issue none rest with handle := true }
    · obtain rfl : accepts = true := haccepts.symm.trans hanswer
      rw [hconfigure]
      rfl
    · obtain rfl : accepts = false := haccepts.symm.trans hanswer
      rw [hconfigure]
      rfl

/-- Before open and after release there is nothing to release (log 9). -/
theorem releaseSession_refused {s : State} (h : s.sess = .closed ∨ s.sess = .released) :
    releaseSession s = .refused .bootOrder := by
  rcases h with h | h <;> simp only [releaseSession, h]

/-- Settles O38: SESS and the handle decide between the two next states of release and its refusal. -/
theorem releaseGivesUpTheHandle : Obligations.ReleaseGivesUpTheHandle := by
  intro s rest hp
  rw [step_releaseSession s rest hp]
  refine ⟨fun hheld => ?_, fun hfailed hnone => ?_, fun hended => releaseSession_refused hended⟩
  · exact (releaseSession_eq_next _ _).2 (.inl ⟨hheld, rfl⟩)
  · exact (releaseSession_eq_next _ _).2 (.inr ⟨hfailed, hnone, rfl⟩)

/-- CFG is not set after open, nor a second time (R246, log 10). -/
theorem setConfig_refused {s : State} (h : s.sess ≠ .closed ∨ s.cfgSet = true) (c : Cfg) :
    setConfig c s = .refused .bootOrder := by
  unfold setConfig
  split
  next hclosed hunset => simp [hclosed, hunset] at h
  next => rfl

/-- Settles O39: setting CFG has its one next state in CLOSED with CFG unset, and is refused elsewhere. -/
theorem setConfigOnlyOnceBeforeOpen : Obligations.SetConfigOnlyOnceBeforeOpen := by
  intro s rest device speedHz mode debug hp
  rw [step_setConfig s device speedHz mode debug rest hp]
  refine ⟨fun hclosed hunset => ?_, fun hlate => setConfig_refused (s := s.issue none rest) hlate _⟩
  exact (setConfig_eq_next _ _ _).2 ⟨hclosed, hunset, rfl⟩

end Sys2Proof.Machine
end

section
/-! PROOFS. Which exchanges the session and the history allow (R243 to R250): none unless SESS is OPEN, and a READ_REGISTER's own
select before its read whatever was selected before. -/
namespace Sys2Proof.Machine

/-- Settles O22: a gated command is a body behind the gate, which refuses it unless SESS is OPEN. -/
theorem transportCommandsNeedOpenSession : Obligations.TransportCommandsNeedOpenSession := by
  intro i s hg hnot
  obtain ⟨body, hexec⟩ := exec_of_gated hg
  rw [hexec, gated_not_opened body s hnot]

/-- A command that completes while SESS is not OPEN is none of the gated ones, and makes no exchange (R245). -/
theorem exec_wire_of_not_opened {i : Instr} {s t : State} (hnot : s.sess ≠ .opened) (h : exec i s = .next t) :
    t.wire = s.wire := by
  obtain ⟨body, -, hexec⟩ | ⟨r, hexec⟩ | hexec := exec_cases i
  · rw [hexec, gated_not_opened body s hnot] at h
    cases h
  · rw [hexec] at h
    obtain ⟨x, -, rfl⟩ := (ungated_eq_next r s t).1 h
    rfl
  · rw [hexec] at h
    cases h

/-- No exchange is made by a step that starts while SESS is not OPEN (R245). -/
theorem step_wire_of_not_opened {s t : State} (hnot : s.sess ≠ .opened) (h : step s = .next t) : t.wire = s.wire := by
  obtain ⟨device, speedHz, mode, debug, rest, -, h⟩ | ⟨rest, -, h⟩ | ⟨rest, -, h⟩ | ⟨l, rest, i, -, -, h⟩ :=
    step_cases s t h
  · obtain ⟨-, -, rfl⟩ := (setConfig_eq_next _ _ t).1 h
    rfl
  · obtain ⟨-, -, -, -, hwire⟩ := openSession_frame h
    exact hwire
  · obtain ⟨-, -, -, hwire⟩ := releaseSession_frame h
    exact hwire
  · exact exec_wire_of_not_opened (s := s.issue l.label rest) hnot h

/-- Settles O42: of the moves of SESS (O41), from FAILED or RELEASED only release is left, and neither is OPEN. -/
theorem endedSessionSendsNothing : Obligations.EndedSessionSendsNothing := by
  intro s t hended h
  have hnot : s.sess ≠ .opened := fun ho => by simp [ho] at hended
  refine ⟨?_, step_wire_of_not_opened hnot h⟩
  obtain ⟨hsame, -⟩ | ⟨-, -, hclosed, -⟩ | ⟨-, -, -, hreleased, -⟩ := sessionMovesOnlyByBootAndRelease s t h
  · rwa [hsame]
  · simp [hclosed] at hended
  · exact .inr hreleased

/-- Settles O11: a READ_REGISTER that completes made its select alone, or its select and then its read. -/
theorem everyReadSelectsItsPage : Obligations.EveryReadSelectsItsPage := by
  intro la width s t hwidth h
  rw [← pageSelectFrame_pageOf, ← registerFrame_eq]
  obtain ⟨-, rfl⟩ := (gated_eq_next (readRegisterBody la width) s t).1 h
  refine ⟨s.wire.event .write (pageSelectFrame (pageOperand (pageOf la))), rfl, rfl, ?_⟩
  rw [State.answered_wire, readRegisterBody_legal la ((isFieldWidth_iff width).2 hwidth)]
  split
  next => exact .inl rfl
  next =>
    exact .inr ⟨(s.wire.selected la).event .read (registerFrame la width), rfl, rfl, List.append_assoc ..⟩

/-- A response of `unlessFailed` is Ok only when the exchange did not fail (R141, R151). -/
theorem exchangeFailed_eq_false_of_unlessFailed {status : Status} {r : Response} {v : Value}
    (h : unlessFailed status r = .ok v) : exchangeFailed status = false := by
  cases hf : exchangeFailed status with
  | false => rfl
  | true => simp [unlessFailed, hf] at h

/-- A SELECT_PAGE of la's page that answers Ok ran in an open session and left the transport as READ_REGISTER's own select does. -/
theorem exec_selectPage_ok {la : BitVec 16} {s t : State} (h : exec (.selectPage (pageOperand (pageOf la))) s = .next t)
    (hok : t.lastResponse = some (.ok .unit)) :
    s.sess = .opened ∧ exchangeFailed (s.wire.selectStatus la) = false ∧
      t = s.answered (s.wire.selected la) (.ok .unit) := by
  obtain ⟨ho, rfl⟩ := (gated_eq_next (selectPageBody (pageOperand (pageOf la))) s t).1 h
  rw [selectPageBody_legal _ _ (pageOperand_legal _)] at hok ⊢
  rw [State.answered_lastResponse, Option.some.injEq] at hok
  exact ⟨ho, exchangeFailed_eq_false_of_unlessFailed hok, by rw [hok]; rfl⟩

/-- Settles O12: READ_REGISTER whose select succeeds is READ_BYTES on the transport after the select. -/
theorem selectThenReadIsReadRegister : Obligations.SelectThenReadIsReadRegister := by
  intro la width s t hwidth hselect hok
  obtain ⟨ho, hf, rfl⟩ := exec_selectPage_ok hselect hok
  refine ⟨_, _, exec_readBytes_opened (s := s.answered (s.wire.selected la) (.ok .unit)) ho _ _,
    exec_readRegister_opened ho la width, ?_⟩
  rw [readRegisterBody_selected la width s.wire ((isFieldWidth_iff width).2 hwidth) hf,
    State.answered_lastResponse, State.answered_lastResponse]
  exact ⟨rfl, rfl⟩

end Sys2Proof.Machine
end
